-- ==== Sys2Proof/Word.lean ====
section
/-! DEFINITION. The two word types of the machine: bytes move on the bus, addresses are 16 bits wide. -/

namespace Sys2Proof

/-- An 8-bit value: a bus byte, `A`, `X`, `Y`, `SP`, the opcode (00_scope.md R9, R10; 10_state.md R22, R23). -/
abbrev Byte := BitVec 8

/-- A 16-bit value: a CPU bus address, `PC`, an operand of two bytes (10_state.md R24; 20_memory.md R70). -/
abbrev Word := BitVec 16

end Sys2Proof
end

