-- ==== Sys2Proof/Machine/Bits.lean ====
section
/-! DEFINITION. Byte order, extension and bit-field helpers (00_scope.md R9, R10; 20_memory.md R80). -/

namespace Sys2Proof.Machine

/-- `hi(w) = w[15:8]` (00_scope.md R10). -/
def hiByte (w : Word) : Byte := w.extractLsb' 8 8

/-- `lo(w) = w[7:0]` (00_scope.md R10). -/
def loByte (w : Word) : Byte := w.extractLsb' 0 8

/-- `h :: l`, the 16-bit value with high byte `h` and low byte `l` (00_scope.md R9). -/
def mkWord (h l : Byte) : Word := h ++ l

/-- `zext_16(b)` (00_scope.md R10). -/
def zext16 (b : Byte) : Word := b.setWidth 16

/-- `sext_16(b)`: the 16-bit two's-complement sign extension of a byte (00_scope.md R10). -/
def sext16 (b : Byte) : Word := b.signExtend 16

/-- A flag as the natural number 0 or 1, for the exact sums of `ADC` and `SBC`. -/
def bit01 (b : Bool) : Nat := if b then 1 else 0

/-- The field of `v` from bit `lo` upward, `n` bits wide, as a natural number (00_scope.md R9, `v[hi:lo]`). -/
def field (v : Byte) (lo n : Nat) : Nat := (v.toNat >>> lo) % 2 ^ n

end Sys2Proof.Machine
end

