-- ==== Sys2Proof/Syntax.lean ====
section
/-! DEFINITION. The instructions: one constructor per row of spec/opcode_table.json (30_encoding.md R141), the 56
operations, the 13 addressing modes and the operand forms they give (R122). -/

namespace Sys2Proof

/-- An instruction with the operand its bytes give it: one constructor per row of spec/opcode_table.json. `v` is
an immediate byte, `z` a zero-page address byte, `w` a 16-bit address, `off` a branch offset (30_encoding.md R121). -/
inductive Instr where
  /-- `LDA #v`: opcode 0xA9 (R160, R129). -/
  | ldaImm (v : Byte)
  /-- `LDA z`: opcode 0xA5 (R160, R130). -/
  | ldaZp (z : Byte)
  /-- `LDA z,X`: opcode 0xB5 (R160, R131). -/
  | ldaZpx (z : Byte)
  /-- `LDA w`: opcode 0xAD (R160, R133). -/
  | ldaAbs (w : Word)
  /-- `LDA w,X`: opcode 0xBD (R160, R134). -/
  | ldaAbx (w : Word)
  /-- `LDA w,Y`: opcode 0xB9 (R160, R135). -/
  | ldaAby (w : Word)
  /-- `LDA (z,X)`: opcode 0xA1 (R160, R137). -/
  | ldaIzx (z : Byte)
  /-- `LDA (z),Y`: opcode 0xB1 (R160, R138). -/
  | ldaIzy (z : Byte)
  /-- `LDX #v`: opcode 0xA2 (R161, R129). -/
  | ldxImm (v : Byte)
  /-- `LDX z`: opcode 0xA6 (R161, R130). -/
  | ldxZp (z : Byte)
  /-- `LDX z,Y`: opcode 0xB6 (R161, R132). -/
  | ldxZpy (z : Byte)
  /-- `LDX w`: opcode 0xAE (R161, R133). -/
  | ldxAbs (w : Word)
  /-- `LDX w,Y`: opcode 0xBE (R161, R135). -/
  | ldxAby (w : Word)
  /-- `LDY #v`: opcode 0xA0 (R162, R129). -/
  | ldyImm (v : Byte)
  /-- `LDY z`: opcode 0xA4 (R162, R130). -/
  | ldyZp (z : Byte)
  /-- `LDY z,X`: opcode 0xB4 (R162, R131). -/
  | ldyZpx (z : Byte)
  /-- `LDY w`: opcode 0xAC (R162, R133). -/
  | ldyAbs (w : Word)
  /-- `LDY w,X`: opcode 0xBC (R162, R134). -/
  | ldyAbx (w : Word)
  /-- `STA z`: opcode 0x85 (R163, R130). -/
  | staZp (z : Byte)
  /-- `STA z,X`: opcode 0x95 (R163, R131). -/
  | staZpx (z : Byte)
  /-- `STA w`: opcode 0x8D (R163, R133). -/
  | staAbs (w : Word)
  /-- `STA w,X`: opcode 0x9D (R163, R134). -/
  | staAbx (w : Word)
  /-- `STA w,Y`: opcode 0x99 (R163, R135). -/
  | staAby (w : Word)
  /-- `STA (z,X)`: opcode 0x81 (R163, R137). -/
  | staIzx (z : Byte)
  /-- `STA (z),Y`: opcode 0x91 (R163, R138). -/
  | staIzy (z : Byte)
  /-- `STX z`: opcode 0x86 (R164, R130). -/
  | stxZp (z : Byte)
  /-- `STX z,Y`: opcode 0x96 (R164, R132). -/
  | stxZpy (z : Byte)
  /-- `STX w`: opcode 0x8E (R164, R133). -/
  | stxAbs (w : Word)
  /-- `STY z`: opcode 0x84 (R165, R130). -/
  | styZp (z : Byte)
  /-- `STY z,X`: opcode 0x94 (R165, R131). -/
  | styZpx (z : Byte)
  /-- `STY w`: opcode 0x8C (R165, R133). -/
  | styAbs (w : Word)
  /-- `TAX`: opcode 0xAA (R166, R127). -/
  | tax
  /-- `TAY`: opcode 0xA8 (R167, R127). -/
  | tay
  /-- `TXA`: opcode 0x8A (R168, R127). -/
  | txa
  /-- `TYA`: opcode 0x98 (R169, R127). -/
  | tya
  /-- `TSX`: opcode 0xBA (R170, R127). -/
  | tsx
  /-- `TXS`: opcode 0x9A (R171, R127). -/
  | txs
  /-- `ADC #v`: opcode 0x69 (R181, R129). -/
  | adcImm (v : Byte)
  /-- `ADC z`: opcode 0x65 (R181, R130). -/
  | adcZp (z : Byte)
  /-- `ADC z,X`: opcode 0x75 (R181, R131). -/
  | adcZpx (z : Byte)
  /-- `ADC w`: opcode 0x6D (R181, R133). -/
  | adcAbs (w : Word)
  /-- `ADC w,X`: opcode 0x7D (R181, R134). -/
  | adcAbx (w : Word)
  /-- `ADC w,Y`: opcode 0x79 (R181, R135). -/
  | adcAby (w : Word)
  /-- `ADC (z,X)`: opcode 0x61 (R181, R137). -/
  | adcIzx (z : Byte)
  /-- `ADC (z),Y`: opcode 0x71 (R181, R138). -/
  | adcIzy (z : Byte)
  /-- `SBC #v`: opcode 0xE9 (R182, R129). -/
  | sbcImm (v : Byte)
  /-- `SBC z`: opcode 0xE5 (R182, R130). -/
  | sbcZp (z : Byte)
  /-- `SBC z,X`: opcode 0xF5 (R182, R131). -/
  | sbcZpx (z : Byte)
  /-- `SBC w`: opcode 0xED (R182, R133). -/
  | sbcAbs (w : Word)
  /-- `SBC w,X`: opcode 0xFD (R182, R134). -/
  | sbcAbx (w : Word)
  /-- `SBC w,Y`: opcode 0xF9 (R182, R135). -/
  | sbcAby (w : Word)
  /-- `SBC (z,X)`: opcode 0xE1 (R182, R137). -/
  | sbcIzx (z : Byte)
  /-- `SBC (z),Y`: opcode 0xF1 (R182, R138). -/
  | sbcIzy (z : Byte)
  /-- `AND #v`: opcode 0x29 (R184, R129). -/
  | andImm (v : Byte)
  /-- `AND z`: opcode 0x25 (R184, R130). -/
  | andZp (z : Byte)
  /-- `AND z,X`: opcode 0x35 (R184, R131). -/
  | andZpx (z : Byte)
  /-- `AND w`: opcode 0x2D (R184, R133). -/
  | andAbs (w : Word)
  /-- `AND w,X`: opcode 0x3D (R184, R134). -/
  | andAbx (w : Word)
  /-- `AND w,Y`: opcode 0x39 (R184, R135). -/
  | andAby (w : Word)
  /-- `AND (z,X)`: opcode 0x21 (R184, R137). -/
  | andIzx (z : Byte)
  /-- `AND (z),Y`: opcode 0x31 (R184, R138). -/
  | andIzy (z : Byte)
  /-- `ORA #v`: opcode 0x09 (R185, R129). -/
  | oraImm (v : Byte)
  /-- `ORA z`: opcode 0x05 (R185, R130). -/
  | oraZp (z : Byte)
  /-- `ORA z,X`: opcode 0x15 (R185, R131). -/
  | oraZpx (z : Byte)
  /-- `ORA w`: opcode 0x0D (R185, R133). -/
  | oraAbs (w : Word)
  /-- `ORA w,X`: opcode 0x1D (R185, R134). -/
  | oraAbx (w : Word)
  /-- `ORA w,Y`: opcode 0x19 (R185, R135). -/
  | oraAby (w : Word)
  /-- `ORA (z,X)`: opcode 0x01 (R185, R137). -/
  | oraIzx (z : Byte)
  /-- `ORA (z),Y`: opcode 0x11 (R185, R138). -/
  | oraIzy (z : Byte)
  /-- `EOR #v`: opcode 0x49 (R186, R129). -/
  | eorImm (v : Byte)
  /-- `EOR z`: opcode 0x45 (R186, R130). -/
  | eorZp (z : Byte)
  /-- `EOR z,X`: opcode 0x55 (R186, R131). -/
  | eorZpx (z : Byte)
  /-- `EOR w`: opcode 0x4D (R186, R133). -/
  | eorAbs (w : Word)
  /-- `EOR w,X`: opcode 0x5D (R186, R134). -/
  | eorAbx (w : Word)
  /-- `EOR w,Y`: opcode 0x59 (R186, R135). -/
  | eorAby (w : Word)
  /-- `EOR (z,X)`: opcode 0x41 (R186, R137). -/
  | eorIzx (z : Byte)
  /-- `EOR (z),Y`: opcode 0x51 (R186, R138). -/
  | eorIzy (z : Byte)
  /-- `CMP #v`: opcode 0xC9 (R187, R129). -/
  | cmpImm (v : Byte)
  /-- `CMP z`: opcode 0xC5 (R187, R130). -/
  | cmpZp (z : Byte)
  /-- `CMP z,X`: opcode 0xD5 (R187, R131). -/
  | cmpZpx (z : Byte)
  /-- `CMP w`: opcode 0xCD (R187, R133). -/
  | cmpAbs (w : Word)
  /-- `CMP w,X`: opcode 0xDD (R187, R134). -/
  | cmpAbx (w : Word)
  /-- `CMP w,Y`: opcode 0xD9 (R187, R135). -/
  | cmpAby (w : Word)
  /-- `CMP (z,X)`: opcode 0xC1 (R187, R137). -/
  | cmpIzx (z : Byte)
  /-- `CMP (z),Y`: opcode 0xD1 (R187, R138). -/
  | cmpIzy (z : Byte)
  /-- `CPX #v`: opcode 0xE0 (R188, R129). -/
  | cpxImm (v : Byte)
  /-- `CPX z`: opcode 0xE4 (R188, R130). -/
  | cpxZp (z : Byte)
  /-- `CPX w`: opcode 0xEC (R188, R133). -/
  | cpxAbs (w : Word)
  /-- `CPY #v`: opcode 0xC0 (R189, R129). -/
  | cpyImm (v : Byte)
  /-- `CPY z`: opcode 0xC4 (R189, R130). -/
  | cpyZp (z : Byte)
  /-- `CPY w`: opcode 0xCC (R189, R133). -/
  | cpyAbs (w : Word)
  /-- `BIT z`: opcode 0x24 (R190, R130). -/
  | bitZp (z : Byte)
  /-- `BIT w`: opcode 0x2C (R190, R133). -/
  | bitAbs (w : Word)
  /-- `INC z`: opcode 0xE6 (R191, R130). -/
  | incZp (z : Byte)
  /-- `INC z,X`: opcode 0xF6 (R191, R131). -/
  | incZpx (z : Byte)
  /-- `INC w`: opcode 0xEE (R191, R133). -/
  | incAbs (w : Word)
  /-- `INC w,X`: opcode 0xFE (R191, R134). -/
  | incAbx (w : Word)
  /-- `DEC z`: opcode 0xC6 (R192, R130). -/
  | decZp (z : Byte)
  /-- `DEC z,X`: opcode 0xD6 (R192, R131). -/
  | decZpx (z : Byte)
  /-- `DEC w`: opcode 0xCE (R192, R133). -/
  | decAbs (w : Word)
  /-- `DEC w,X`: opcode 0xDE (R192, R134). -/
  | decAbx (w : Word)
  /-- `INX`: opcode 0xE8 (R193, R127). -/
  | inx
  /-- `INY`: opcode 0xC8 (R194, R127). -/
  | iny
  /-- `DEX`: opcode 0xCA (R195, R127). -/
  | dex
  /-- `DEY`: opcode 0x88 (R196, R127). -/
  | dey
  /-- `ASL A`: opcode 0x0A (R211, R128). -/
  | aslAcc
  /-- `ASL z`: opcode 0x06 (R211, R130). -/
  | aslZp (z : Byte)
  /-- `ASL z,X`: opcode 0x16 (R211, R131). -/
  | aslZpx (z : Byte)
  /-- `ASL w`: opcode 0x0E (R211, R133). -/
  | aslAbs (w : Word)
  /-- `ASL w,X`: opcode 0x1E (R211, R134). -/
  | aslAbx (w : Word)
  /-- `LSR A`: opcode 0x4A (R212, R128). -/
  | lsrAcc
  /-- `LSR z`: opcode 0x46 (R212, R130). -/
  | lsrZp (z : Byte)
  /-- `LSR z,X`: opcode 0x56 (R212, R131). -/
  | lsrZpx (z : Byte)
  /-- `LSR w`: opcode 0x4E (R212, R133). -/
  | lsrAbs (w : Word)
  /-- `LSR w,X`: opcode 0x5E (R212, R134). -/
  | lsrAbx (w : Word)
  /-- `ROL A`: opcode 0x2A (R213, R128). -/
  | rolAcc
  /-- `ROL z`: opcode 0x26 (R213, R130). -/
  | rolZp (z : Byte)
  /-- `ROL z,X`: opcode 0x36 (R213, R131). -/
  | rolZpx (z : Byte)
  /-- `ROL w`: opcode 0x2E (R213, R133). -/
  | rolAbs (w : Word)
  /-- `ROL w,X`: opcode 0x3E (R213, R134). -/
  | rolAbx (w : Word)
  /-- `ROR A`: opcode 0x6A (R214, R128). -/
  | rorAcc
  /-- `ROR z`: opcode 0x66 (R214, R130). -/
  | rorZp (z : Byte)
  /-- `ROR z,X`: opcode 0x76 (R214, R131). -/
  | rorZpx (z : Byte)
  /-- `ROR w`: opcode 0x6E (R214, R133). -/
  | rorAbs (w : Word)
  /-- `ROR w,X`: opcode 0x7E (R214, R134). -/
  | rorAbx (w : Word)
  /-- `JMP w`: opcode 0x4C (R220, R133). -/
  | jmpAbs (w : Word)
  /-- `JMP (w)`: opcode 0x6C (R220, R136). -/
  | jmpInd (w : Word)
  /-- `JSR w`: opcode 0x20 (R221, R133). -/
  | jsr (w : Word)
  /-- `RTS`: opcode 0x60 (R222, R127). -/
  | rts
  /-- `BPL off`: opcode 0x10 (R231, R139). -/
  | bpl (off : Byte)
  /-- `BMI off`: opcode 0x30 (R232, R139). -/
  | bmi (off : Byte)
  /-- `BVC off`: opcode 0x50 (R233, R139). -/
  | bvc (off : Byte)
  /-- `BVS off`: opcode 0x70 (R234, R139). -/
  | bvs (off : Byte)
  /-- `BCC off`: opcode 0x90 (R235, R139). -/
  | bcc (off : Byte)
  /-- `BCS off`: opcode 0xB0 (R236, R139). -/
  | bcs (off : Byte)
  /-- `BNE off`: opcode 0xD0 (R237, R139). -/
  | bne (off : Byte)
  /-- `BEQ off`: opcode 0xF0 (R238, R139). -/
  | beq (off : Byte)
  /-- `PHA`: opcode 0x48 (R240, R127). -/
  | pha
  /-- `PLA`: opcode 0x68 (R241, R127). -/
  | pla
  /-- `PHP`: opcode 0x08 (R242, R127). -/
  | php
  /-- `PLP`: opcode 0x28 (R243, R127). -/
  | plp
  /-- `CLC`: opcode 0x18 (R244, R127). -/
  | clc
  /-- `SEC`: opcode 0x38 (R245, R127). -/
  | sec
  /-- `CLI`: opcode 0x58 (R246, R127). -/
  | cli
  /-- `SEI`: opcode 0x78 (R247, R127). -/
  | sei
  /-- `CLD`: opcode 0xD8 (R248, R127). -/
  | cld
  /-- `SED`: opcode 0xF8 (R249, R127). -/
  | sed
  /-- `CLV`: opcode 0xB8 (R250, R127). -/
  | clv
  /-- `NOP`: opcode 0xEA (R255, R127). -/
  | nop
  /-- `BRK`: opcode 0x00 (R262, R127). -/
  | brk
  /-- `RTI`: opcode 0x40 (R263, R127). -/
  | rti
deriving DecidableEq, Repr

/-- The 56 operations, by mnemonic (30_encoding.md R142). -/
inductive Op where
  | lda | ldx | ldy | sta | stx | sty | tax | tay | txa | tya | tsx | txs | adc | sbc | and | ora
  | eor | cmp | cpx | cpy | bit | inc | dec | inx | iny | dex | dey | asl | lsr | rol | ror | jmp
  | jsr | rts | bpl | bmi | bvc | bvs | bcc | bcs | bne | beq | pha | pla | php | plp | clc | sec
  | cli | sei | cld | sed | clv | nop | brk | rti
deriving DecidableEq, Repr

/-- The 13 addressing modes (30_encoding.md R122). -/
inductive Mode where
  | imp | acc | imm | zp | zpx | zpy | abs | abx | aby | ind | izx | izy | rel
deriving DecidableEq, Repr

/-- An operand that names an effective address: what its mode and operand bytes say, before it is resolved
(30_encoding.md R130 to R139). -/
inductive AddrForm where
  /-- zero-page -/
  | zp (z : Byte)
  /-- zero-page+X -/
  | zpx (z : Byte)
  /-- zero-page+Y -/
  | zpy (z : Byte)
  /-- absolute -/
  | abs (w : Word)
  /-- absolute+X -/
  | abx (w : Word)
  /-- absolute+Y -/
  | aby (w : Word)
  /-- indirect -/
  | ind (w : Word)
  /-- (indirect,X) -/
  | izx (z : Byte)
  /-- (indirect),Y -/
  | izy (z : Byte)
  /-- relative -/
  | rel (off : Byte)
deriving DecidableEq, Repr

/-- An instruction's operand: none (implied), the accumulator, an immediate byte, or an address form
(30_encoding.md R126: `None`, `Acc`, `Addr(ea)`; the immediate byte stands for itself, log 8). -/
inductive Operand where
  | imp
  | acc
  | imm (v : Byte)
  | mem (f : AddrForm)
deriving DecidableEq, Repr

/-- The pair (operation, operand) as an assembler writes it; not every pair is an instruction. -/
structure Form where
  op : Op
  operand : Operand
deriving DecidableEq, Repr

end Sys2Proof
end

