-- ==== Sys2Proof/Machine/Forms.lean ====
section
/-! DEFINITION. The views of an instruction: its operation, its operand, its mode and its length
(30_encoding.md R120, R122, R124, R125). -/

namespace Sys2Proof

/-- The operation of an instruction (30_encoding.md R125). -/
def Instr.op : Instr → Op
  | .ldaImm _ => .lda
  | .ldaZp _ => .lda
  | .ldaZpx _ => .lda
  | .ldaAbs _ => .lda
  | .ldaAbx _ => .lda
  | .ldaAby _ => .lda
  | .ldaIzx _ => .lda
  | .ldaIzy _ => .lda
  | .ldxImm _ => .ldx
  | .ldxZp _ => .ldx
  | .ldxZpy _ => .ldx
  | .ldxAbs _ => .ldx
  | .ldxAby _ => .ldx
  | .ldyImm _ => .ldy
  | .ldyZp _ => .ldy
  | .ldyZpx _ => .ldy
  | .ldyAbs _ => .ldy
  | .ldyAbx _ => .ldy
  | .staZp _ => .sta
  | .staZpx _ => .sta
  | .staAbs _ => .sta
  | .staAbx _ => .sta
  | .staAby _ => .sta
  | .staIzx _ => .sta
  | .staIzy _ => .sta
  | .stxZp _ => .stx
  | .stxZpy _ => .stx
  | .stxAbs _ => .stx
  | .styZp _ => .sty
  | .styZpx _ => .sty
  | .styAbs _ => .sty
  | .tax => .tax
  | .tay => .tay
  | .txa => .txa
  | .tya => .tya
  | .tsx => .tsx
  | .txs => .txs
  | .adcImm _ => .adc
  | .adcZp _ => .adc
  | .adcZpx _ => .adc
  | .adcAbs _ => .adc
  | .adcAbx _ => .adc
  | .adcAby _ => .adc
  | .adcIzx _ => .adc
  | .adcIzy _ => .adc
  | .sbcImm _ => .sbc
  | .sbcZp _ => .sbc
  | .sbcZpx _ => .sbc
  | .sbcAbs _ => .sbc
  | .sbcAbx _ => .sbc
  | .sbcAby _ => .sbc
  | .sbcIzx _ => .sbc
  | .sbcIzy _ => .sbc
  | .andImm _ => .and
  | .andZp _ => .and
  | .andZpx _ => .and
  | .andAbs _ => .and
  | .andAbx _ => .and
  | .andAby _ => .and
  | .andIzx _ => .and
  | .andIzy _ => .and
  | .oraImm _ => .ora
  | .oraZp _ => .ora
  | .oraZpx _ => .ora
  | .oraAbs _ => .ora
  | .oraAbx _ => .ora
  | .oraAby _ => .ora
  | .oraIzx _ => .ora
  | .oraIzy _ => .ora
  | .eorImm _ => .eor
  | .eorZp _ => .eor
  | .eorZpx _ => .eor
  | .eorAbs _ => .eor
  | .eorAbx _ => .eor
  | .eorAby _ => .eor
  | .eorIzx _ => .eor
  | .eorIzy _ => .eor
  | .cmpImm _ => .cmp
  | .cmpZp _ => .cmp
  | .cmpZpx _ => .cmp
  | .cmpAbs _ => .cmp
  | .cmpAbx _ => .cmp
  | .cmpAby _ => .cmp
  | .cmpIzx _ => .cmp
  | .cmpIzy _ => .cmp
  | .cpxImm _ => .cpx
  | .cpxZp _ => .cpx
  | .cpxAbs _ => .cpx
  | .cpyImm _ => .cpy
  | .cpyZp _ => .cpy
  | .cpyAbs _ => .cpy
  | .bitZp _ => .bit
  | .bitAbs _ => .bit
  | .incZp _ => .inc
  | .incZpx _ => .inc
  | .incAbs _ => .inc
  | .incAbx _ => .inc
  | .decZp _ => .dec
  | .decZpx _ => .dec
  | .decAbs _ => .dec
  | .decAbx _ => .dec
  | .inx => .inx
  | .iny => .iny
  | .dex => .dex
  | .dey => .dey
  | .aslAcc => .asl
  | .aslZp _ => .asl
  | .aslZpx _ => .asl
  | .aslAbs _ => .asl
  | .aslAbx _ => .asl
  | .lsrAcc => .lsr
  | .lsrZp _ => .lsr
  | .lsrZpx _ => .lsr
  | .lsrAbs _ => .lsr
  | .lsrAbx _ => .lsr
  | .rolAcc => .rol
  | .rolZp _ => .rol
  | .rolZpx _ => .rol
  | .rolAbs _ => .rol
  | .rolAbx _ => .rol
  | .rorAcc => .ror
  | .rorZp _ => .ror
  | .rorZpx _ => .ror
  | .rorAbs _ => .ror
  | .rorAbx _ => .ror
  | .jmpAbs _ => .jmp
  | .jmpInd _ => .jmp
  | .jsr _ => .jsr
  | .rts => .rts
  | .bpl _ => .bpl
  | .bmi _ => .bmi
  | .bvc _ => .bvc
  | .bvs _ => .bvs
  | .bcc _ => .bcc
  | .bcs _ => .bcs
  | .bne _ => .bne
  | .beq _ => .beq
  | .pha => .pha
  | .pla => .pla
  | .php => .php
  | .plp => .plp
  | .clc => .clc
  | .sec => .sec
  | .cli => .cli
  | .sei => .sei
  | .cld => .cld
  | .sed => .sed
  | .clv => .clv
  | .nop => .nop
  | .brk => .brk
  | .rti => .rti

/-- The operand of an instruction (30_encoding.md R122, R125). -/
def Instr.operand : Instr → Operand
  | .ldaImm v => .imm v
  | .ldaZp z => .mem (.zp z)
  | .ldaZpx z => .mem (.zpx z)
  | .ldaAbs w => .mem (.abs w)
  | .ldaAbx w => .mem (.abx w)
  | .ldaAby w => .mem (.aby w)
  | .ldaIzx z => .mem (.izx z)
  | .ldaIzy z => .mem (.izy z)
  | .ldxImm v => .imm v
  | .ldxZp z => .mem (.zp z)
  | .ldxZpy z => .mem (.zpy z)
  | .ldxAbs w => .mem (.abs w)
  | .ldxAby w => .mem (.aby w)
  | .ldyImm v => .imm v
  | .ldyZp z => .mem (.zp z)
  | .ldyZpx z => .mem (.zpx z)
  | .ldyAbs w => .mem (.abs w)
  | .ldyAbx w => .mem (.abx w)
  | .staZp z => .mem (.zp z)
  | .staZpx z => .mem (.zpx z)
  | .staAbs w => .mem (.abs w)
  | .staAbx w => .mem (.abx w)
  | .staAby w => .mem (.aby w)
  | .staIzx z => .mem (.izx z)
  | .staIzy z => .mem (.izy z)
  | .stxZp z => .mem (.zp z)
  | .stxZpy z => .mem (.zpy z)
  | .stxAbs w => .mem (.abs w)
  | .styZp z => .mem (.zp z)
  | .styZpx z => .mem (.zpx z)
  | .styAbs w => .mem (.abs w)
  | .tax => .imp
  | .tay => .imp
  | .txa => .imp
  | .tya => .imp
  | .tsx => .imp
  | .txs => .imp
  | .adcImm v => .imm v
  | .adcZp z => .mem (.zp z)
  | .adcZpx z => .mem (.zpx z)
  | .adcAbs w => .mem (.abs w)
  | .adcAbx w => .mem (.abx w)
  | .adcAby w => .mem (.aby w)
  | .adcIzx z => .mem (.izx z)
  | .adcIzy z => .mem (.izy z)
  | .sbcImm v => .imm v
  | .sbcZp z => .mem (.zp z)
  | .sbcZpx z => .mem (.zpx z)
  | .sbcAbs w => .mem (.abs w)
  | .sbcAbx w => .mem (.abx w)
  | .sbcAby w => .mem (.aby w)
  | .sbcIzx z => .mem (.izx z)
  | .sbcIzy z => .mem (.izy z)
  | .andImm v => .imm v
  | .andZp z => .mem (.zp z)
  | .andZpx z => .mem (.zpx z)
  | .andAbs w => .mem (.abs w)
  | .andAbx w => .mem (.abx w)
  | .andAby w => .mem (.aby w)
  | .andIzx z => .mem (.izx z)
  | .andIzy z => .mem (.izy z)
  | .oraImm v => .imm v
  | .oraZp z => .mem (.zp z)
  | .oraZpx z => .mem (.zpx z)
  | .oraAbs w => .mem (.abs w)
  | .oraAbx w => .mem (.abx w)
  | .oraAby w => .mem (.aby w)
  | .oraIzx z => .mem (.izx z)
  | .oraIzy z => .mem (.izy z)
  | .eorImm v => .imm v
  | .eorZp z => .mem (.zp z)
  | .eorZpx z => .mem (.zpx z)
  | .eorAbs w => .mem (.abs w)
  | .eorAbx w => .mem (.abx w)
  | .eorAby w => .mem (.aby w)
  | .eorIzx z => .mem (.izx z)
  | .eorIzy z => .mem (.izy z)
  | .cmpImm v => .imm v
  | .cmpZp z => .mem (.zp z)
  | .cmpZpx z => .mem (.zpx z)
  | .cmpAbs w => .mem (.abs w)
  | .cmpAbx w => .mem (.abx w)
  | .cmpAby w => .mem (.aby w)
  | .cmpIzx z => .mem (.izx z)
  | .cmpIzy z => .mem (.izy z)
  | .cpxImm v => .imm v
  | .cpxZp z => .mem (.zp z)
  | .cpxAbs w => .mem (.abs w)
  | .cpyImm v => .imm v
  | .cpyZp z => .mem (.zp z)
  | .cpyAbs w => .mem (.abs w)
  | .bitZp z => .mem (.zp z)
  | .bitAbs w => .mem (.abs w)
  | .incZp z => .mem (.zp z)
  | .incZpx z => .mem (.zpx z)
  | .incAbs w => .mem (.abs w)
  | .incAbx w => .mem (.abx w)
  | .decZp z => .mem (.zp z)
  | .decZpx z => .mem (.zpx z)
  | .decAbs w => .mem (.abs w)
  | .decAbx w => .mem (.abx w)
  | .inx => .imp
  | .iny => .imp
  | .dex => .imp
  | .dey => .imp
  | .aslAcc => .acc
  | .aslZp z => .mem (.zp z)
  | .aslZpx z => .mem (.zpx z)
  | .aslAbs w => .mem (.abs w)
  | .aslAbx w => .mem (.abx w)
  | .lsrAcc => .acc
  | .lsrZp z => .mem (.zp z)
  | .lsrZpx z => .mem (.zpx z)
  | .lsrAbs w => .mem (.abs w)
  | .lsrAbx w => .mem (.abx w)
  | .rolAcc => .acc
  | .rolZp z => .mem (.zp z)
  | .rolZpx z => .mem (.zpx z)
  | .rolAbs w => .mem (.abs w)
  | .rolAbx w => .mem (.abx w)
  | .rorAcc => .acc
  | .rorZp z => .mem (.zp z)
  | .rorZpx z => .mem (.zpx z)
  | .rorAbs w => .mem (.abs w)
  | .rorAbx w => .mem (.abx w)
  | .jmpAbs w => .mem (.abs w)
  | .jmpInd w => .mem (.ind w)
  | .jsr w => .mem (.abs w)
  | .rts => .imp
  | .bpl off => .mem (.rel off)
  | .bmi off => .mem (.rel off)
  | .bvc off => .mem (.rel off)
  | .bvs off => .mem (.rel off)
  | .bcc off => .mem (.rel off)
  | .bcs off => .mem (.rel off)
  | .bne off => .mem (.rel off)
  | .beq off => .mem (.rel off)
  | .pha => .imp
  | .pla => .imp
  | .php => .imp
  | .plp => .imp
  | .clc => .imp
  | .sec => .imp
  | .cli => .imp
  | .sei => .imp
  | .cld => .imp
  | .sed => .imp
  | .clv => .imp
  | .nop => .imp
  | .brk => .imp
  | .rti => .imp

/-- The addressing mode of an address form. -/
def AddrForm.mode : AddrForm → Mode
  | .zp _ => .zp
  | .zpx _ => .zpx
  | .zpy _ => .zpy
  | .abs _ => .abs
  | .abx _ => .abx
  | .aby _ => .aby
  | .ind _ => .ind
  | .izx _ => .izx
  | .izy _ => .izy
  | .rel _ => .rel

/-- The addressing mode of an operand (30_encoding.md R122). -/
def Operand.mode : Operand → Mode
  | .imp => .imp
  | .acc => .acc
  | .imm _ => .imm
  | .mem f => f.mode

/-- The number of operand bytes of a mode (30_encoding.md R122). -/
def Mode.operandBytes : Mode → Nat
  | .imp | .acc => 0
  | .imm | .zp | .zpx | .zpy | .izx | .izy | .rel => 1
  | .abs | .abx | .aby | .ind => 2

/-- The addressing mode of an instruction. -/
def Instr.mode (i : Instr) : Mode := i.operand.mode

/-- The length of an instruction in bytes: one opcode byte and its mode's operand bytes (30_encoding.md R120, R124). -/
def Instr.length (i : Instr) : Nat := 1 + i.mode.operandBytes

/-- An instruction as the pair (operation, operand). -/
def Instr.form (i : Instr) : Form := { op := i.op, operand := i.operand }

end Sys2Proof
end

