-- ==== Sys2Proof/Decode.lean ====
section
/-! DEFINITION. The decoder, from the opcode map of 30_encoding.md R141 (row = high nibble, column = low nibble), and
after it the encoder. The decoder is total on every list of bytes and rejects by name. -/

namespace Sys2Proof

open Machine

/-- What an opcode byte says: the whole instruction (format F1), or how to make it of one operand byte (F2) or
of a 16-bit operand (F3) (30_encoding.md R120). -/
inductive Shape where
  | f1 (i : Instr)
  | f2 (mk : Byte → Instr)
  | f3 (mk : Word → Instr)

/-- A filled cell of the map, format F1. -/
def cell1 (i : Instr) : Option Shape := some (.f1 i)

/-- A filled cell of the map, format F2. -/
def cell2 (mk : Byte → Instr) : Option Shape := some (.f2 mk)

/-- A filled cell of the map, format F3. -/
def cell3 (mk : Word → Instr) : Option Shape := some (.f3 mk)

/-- Row 0x of the opcode map; `none` is an illegal opcode (30_encoding.md R141, R150). -/
def opcodeRow0 : List (Option Shape) :=
  [cell1 .brk, cell2 .oraIzx, none, none,
   none, cell2 .oraZp, cell2 .aslZp, none,
   cell1 .php, cell2 .oraImm, cell1 .aslAcc, none,
   none, cell3 .oraAbs, cell3 .aslAbs, none]

/-- Row 1x of the opcode map; `none` is an illegal opcode (30_encoding.md R141, R150). -/
def opcodeRow1 : List (Option Shape) :=
  [cell2 .bpl, cell2 .oraIzy, none, none,
   none, cell2 .oraZpx, cell2 .aslZpx, none,
   cell1 .clc, cell3 .oraAby, none, none,
   none, cell3 .oraAbx, cell3 .aslAbx, none]

/-- Row 2x of the opcode map; `none` is an illegal opcode (30_encoding.md R141, R150). -/
def opcodeRow2 : List (Option Shape) :=
  [cell3 .jsr, cell2 .andIzx, none, none,
   cell2 .bitZp, cell2 .andZp, cell2 .rolZp, none,
   cell1 .plp, cell2 .andImm, cell1 .rolAcc, none,
   cell3 .bitAbs, cell3 .andAbs, cell3 .rolAbs, none]

/-- Row 3x of the opcode map; `none` is an illegal opcode (30_encoding.md R141, R150). -/
def opcodeRow3 : List (Option Shape) :=
  [cell2 .bmi, cell2 .andIzy, none, none,
   none, cell2 .andZpx, cell2 .rolZpx, none,
   cell1 .sec, cell3 .andAby, none, none,
   none, cell3 .andAbx, cell3 .rolAbx, none]

/-- Row 4x of the opcode map; `none` is an illegal opcode (30_encoding.md R141, R150). -/
def opcodeRow4 : List (Option Shape) :=
  [cell1 .rti, cell2 .eorIzx, none, none,
   none, cell2 .eorZp, cell2 .lsrZp, none,
   cell1 .pha, cell2 .eorImm, cell1 .lsrAcc, none,
   cell3 .jmpAbs, cell3 .eorAbs, cell3 .lsrAbs, none]

/-- Row 5x of the opcode map; `none` is an illegal opcode (30_encoding.md R141, R150). -/
def opcodeRow5 : List (Option Shape) :=
  [cell2 .bvc, cell2 .eorIzy, none, none,
   none, cell2 .eorZpx, cell2 .lsrZpx, none,
   cell1 .cli, cell3 .eorAby, none, none,
   none, cell3 .eorAbx, cell3 .lsrAbx, none]

/-- Row 6x of the opcode map; `none` is an illegal opcode (30_encoding.md R141, R150). -/
def opcodeRow6 : List (Option Shape) :=
  [cell1 .rts, cell2 .adcIzx, none, none,
   none, cell2 .adcZp, cell2 .rorZp, none,
   cell1 .pla, cell2 .adcImm, cell1 .rorAcc, none,
   cell3 .jmpInd, cell3 .adcAbs, cell3 .rorAbs, none]

/-- Row 7x of the opcode map; `none` is an illegal opcode (30_encoding.md R141, R150). -/
def opcodeRow7 : List (Option Shape) :=
  [cell2 .bvs, cell2 .adcIzy, none, none,
   none, cell2 .adcZpx, cell2 .rorZpx, none,
   cell1 .sei, cell3 .adcAby, none, none,
   none, cell3 .adcAbx, cell3 .rorAbx, none]

/-- Row 8x of the opcode map; `none` is an illegal opcode (30_encoding.md R141, R150). -/
def opcodeRow8 : List (Option Shape) :=
  [none, cell2 .staIzx, none, none,
   cell2 .styZp, cell2 .staZp, cell2 .stxZp, none,
   cell1 .dey, none, cell1 .txa, none,
   cell3 .styAbs, cell3 .staAbs, cell3 .stxAbs, none]

/-- Row 9x of the opcode map; `none` is an illegal opcode (30_encoding.md R141, R150). -/
def opcodeRow9 : List (Option Shape) :=
  [cell2 .bcc, cell2 .staIzy, none, none,
   cell2 .styZpx, cell2 .staZpx, cell2 .stxZpy, none,
   cell1 .tya, cell3 .staAby, cell1 .txs, none,
   none, cell3 .staAbx, none, none]

/-- Row Ax of the opcode map; `none` is an illegal opcode (30_encoding.md R141, R150). -/
def opcodeRowA : List (Option Shape) :=
  [cell2 .ldyImm, cell2 .ldaIzx, cell2 .ldxImm, none,
   cell2 .ldyZp, cell2 .ldaZp, cell2 .ldxZp, none,
   cell1 .tay, cell2 .ldaImm, cell1 .tax, none,
   cell3 .ldyAbs, cell3 .ldaAbs, cell3 .ldxAbs, none]

/-- Row Bx of the opcode map; `none` is an illegal opcode (30_encoding.md R141, R150). -/
def opcodeRowB : List (Option Shape) :=
  [cell2 .bcs, cell2 .ldaIzy, none, none,
   cell2 .ldyZpx, cell2 .ldaZpx, cell2 .ldxZpy, none,
   cell1 .clv, cell3 .ldaAby, cell1 .tsx, none,
   cell3 .ldyAbx, cell3 .ldaAbx, cell3 .ldxAby, none]

/-- Row Cx of the opcode map; `none` is an illegal opcode (30_encoding.md R141, R150). -/
def opcodeRowC : List (Option Shape) :=
  [cell2 .cpyImm, cell2 .cmpIzx, none, none,
   cell2 .cpyZp, cell2 .cmpZp, cell2 .decZp, none,
   cell1 .iny, cell2 .cmpImm, cell1 .dex, none,
   cell3 .cpyAbs, cell3 .cmpAbs, cell3 .decAbs, none]

/-- Row Dx of the opcode map; `none` is an illegal opcode (30_encoding.md R141, R150). -/
def opcodeRowD : List (Option Shape) :=
  [cell2 .bne, cell2 .cmpIzy, none, none,
   none, cell2 .cmpZpx, cell2 .decZpx, none,
   cell1 .cld, cell3 .cmpAby, none, none,
   none, cell3 .cmpAbx, cell3 .decAbx, none]

/-- Row Ex of the opcode map; `none` is an illegal opcode (30_encoding.md R141, R150). -/
def opcodeRowE : List (Option Shape) :=
  [cell2 .cpxImm, cell2 .sbcIzx, none, none,
   cell2 .cpxZp, cell2 .sbcZp, cell2 .incZp, none,
   cell1 .inx, cell2 .sbcImm, cell1 .nop, none,
   cell3 .cpxAbs, cell3 .sbcAbs, cell3 .incAbs, none]

/-- Row Fx of the opcode map; `none` is an illegal opcode (30_encoding.md R141, R150). -/
def opcodeRowF : List (Option Shape) :=
  [cell2 .beq, cell2 .sbcIzy, none, none,
   none, cell2 .sbcZpx, cell2 .incZpx, none,
   cell1 .sed, cell3 .sbcAby, none, none,
   none, cell3 .sbcAbx, cell3 .incAbx, none]

/-- The opcode map: 16 rows of 16 cells (30_encoding.md R141). -/
def opcodeMap : List (List (Option Shape)) :=
  [opcodeRow0, opcodeRow1, opcodeRow2, opcodeRow3, opcodeRow4, opcodeRow5, opcodeRow6, opcodeRow7,
   opcodeRow8, opcodeRow9, opcodeRowA, opcodeRowB, opcodeRowC, opcodeRowD, opcodeRowE, opcodeRowF]

/-- `Decode(opcode)` (30_encoding.md R125): the cell of an opcode byte, total over the 256 values. -/
def opcodeShape (op : Byte) : Option Shape :=
  ((opcodeMap[op.toNat / 16]?).getD [])[op.toNat % 16]?.getD none

/-- The number of operand bytes that follow an opcode byte (30_encoding.md R124); none follow an illegal one. -/
def operandCount (op : Byte) : Nat :=
  match opcodeShape op with
  | none => 0
  | some (.f1 _) => 0
  | some (.f2 _) => 1
  | some (.f3 _) => 2

/-- What decoding answers: an instruction and the bytes after it, or a refusal by name. -/
inductive DecodeResult where
  /-- The instruction, and the bytes that follow it. -/
  | ok (i : Instr) (rest : List Byte)
  /-- The opcode byte is one of the 105 illegal values (30_encoding.md R150). -/
  | illegalOpcode (op : Byte)
  /-- The list ends before the instruction does; a fetch never gives such a list. -/
  | truncated
deriving DecidableEq, Repr

/-- Decode the instruction at the head of a list of bytes, in ascending address order (30_encoding.md R120, R121). -/
def decode : List Byte → DecodeResult
  | [] => .truncated
  | op :: rest =>
    match opcodeShape op with
    | none => .illegalOpcode op
    | some (.f1 i) => .ok i rest
    | some (.f2 mk) =>
      match rest with
      | b :: r => .ok (mk b) r
      | [] => .truncated
    | some (.f3 mk) =>
      match rest with
      | lo :: hi :: r => .ok (mk (mkWord hi lo)) r
      | _ => .truncated

/-- The instruction of a decoding, if there is one. -/
def DecodeResult.instr? : DecodeResult → Option Instr
  | .ok i _ => some i
  | .illegalOpcode _ => none
  | .truncated => none

/-- The opcode of each instruction: the map by mnemonic (30_encoding.md R142). -/
def Instr.opcode : Instr → Byte
  | .ldaImm _ => 0xA9#8
  | .ldaZp _ => 0xA5#8
  | .ldaZpx _ => 0xB5#8
  | .ldaAbs _ => 0xAD#8
  | .ldaAbx _ => 0xBD#8
  | .ldaAby _ => 0xB9#8
  | .ldaIzx _ => 0xA1#8
  | .ldaIzy _ => 0xB1#8
  | .ldxImm _ => 0xA2#8
  | .ldxZp _ => 0xA6#8
  | .ldxZpy _ => 0xB6#8
  | .ldxAbs _ => 0xAE#8
  | .ldxAby _ => 0xBE#8
  | .ldyImm _ => 0xA0#8
  | .ldyZp _ => 0xA4#8
  | .ldyZpx _ => 0xB4#8
  | .ldyAbs _ => 0xAC#8
  | .ldyAbx _ => 0xBC#8
  | .staZp _ => 0x85#8
  | .staZpx _ => 0x95#8
  | .staAbs _ => 0x8D#8
  | .staAbx _ => 0x9D#8
  | .staAby _ => 0x99#8
  | .staIzx _ => 0x81#8
  | .staIzy _ => 0x91#8
  | .stxZp _ => 0x86#8
  | .stxZpy _ => 0x96#8
  | .stxAbs _ => 0x8E#8
  | .styZp _ => 0x84#8
  | .styZpx _ => 0x94#8
  | .styAbs _ => 0x8C#8
  | .tax => 0xAA#8
  | .tay => 0xA8#8
  | .txa => 0x8A#8
  | .tya => 0x98#8
  | .tsx => 0xBA#8
  | .txs => 0x9A#8
  | .adcImm _ => 0x69#8
  | .adcZp _ => 0x65#8
  | .adcZpx _ => 0x75#8
  | .adcAbs _ => 0x6D#8
  | .adcAbx _ => 0x7D#8
  | .adcAby _ => 0x79#8
  | .adcIzx _ => 0x61#8
  | .adcIzy _ => 0x71#8
  | .sbcImm _ => 0xE9#8
  | .sbcZp _ => 0xE5#8
  | .sbcZpx _ => 0xF5#8
  | .sbcAbs _ => 0xED#8
  | .sbcAbx _ => 0xFD#8
  | .sbcAby _ => 0xF9#8
  | .sbcIzx _ => 0xE1#8
  | .sbcIzy _ => 0xF1#8
  | .andImm _ => 0x29#8
  | .andZp _ => 0x25#8
  | .andZpx _ => 0x35#8
  | .andAbs _ => 0x2D#8
  | .andAbx _ => 0x3D#8
  | .andAby _ => 0x39#8
  | .andIzx _ => 0x21#8
  | .andIzy _ => 0x31#8
  | .oraImm _ => 0x09#8
  | .oraZp _ => 0x05#8
  | .oraZpx _ => 0x15#8
  | .oraAbs _ => 0x0D#8
  | .oraAbx _ => 0x1D#8
  | .oraAby _ => 0x19#8
  | .oraIzx _ => 0x01#8
  | .oraIzy _ => 0x11#8
  | .eorImm _ => 0x49#8
  | .eorZp _ => 0x45#8
  | .eorZpx _ => 0x55#8
  | .eorAbs _ => 0x4D#8
  | .eorAbx _ => 0x5D#8
  | .eorAby _ => 0x59#8
  | .eorIzx _ => 0x41#8
  | .eorIzy _ => 0x51#8
  | .cmpImm _ => 0xC9#8
  | .cmpZp _ => 0xC5#8
  | .cmpZpx _ => 0xD5#8
  | .cmpAbs _ => 0xCD#8
  | .cmpAbx _ => 0xDD#8
  | .cmpAby _ => 0xD9#8
  | .cmpIzx _ => 0xC1#8
  | .cmpIzy _ => 0xD1#8
  | .cpxImm _ => 0xE0#8
  | .cpxZp _ => 0xE4#8
  | .cpxAbs _ => 0xEC#8
  | .cpyImm _ => 0xC0#8
  | .cpyZp _ => 0xC4#8
  | .cpyAbs _ => 0xCC#8
  | .bitZp _ => 0x24#8
  | .bitAbs _ => 0x2C#8
  | .incZp _ => 0xE6#8
  | .incZpx _ => 0xF6#8
  | .incAbs _ => 0xEE#8
  | .incAbx _ => 0xFE#8
  | .decZp _ => 0xC6#8
  | .decZpx _ => 0xD6#8
  | .decAbs _ => 0xCE#8
  | .decAbx _ => 0xDE#8
  | .inx => 0xE8#8
  | .iny => 0xC8#8
  | .dex => 0xCA#8
  | .dey => 0x88#8
  | .aslAcc => 0x0A#8
  | .aslZp _ => 0x06#8
  | .aslZpx _ => 0x16#8
  | .aslAbs _ => 0x0E#8
  | .aslAbx _ => 0x1E#8
  | .lsrAcc => 0x4A#8
  | .lsrZp _ => 0x46#8
  | .lsrZpx _ => 0x56#8
  | .lsrAbs _ => 0x4E#8
  | .lsrAbx _ => 0x5E#8
  | .rolAcc => 0x2A#8
  | .rolZp _ => 0x26#8
  | .rolZpx _ => 0x36#8
  | .rolAbs _ => 0x2E#8
  | .rolAbx _ => 0x3E#8
  | .rorAcc => 0x6A#8
  | .rorZp _ => 0x66#8
  | .rorZpx _ => 0x76#8
  | .rorAbs _ => 0x6E#8
  | .rorAbx _ => 0x7E#8
  | .jmpAbs _ => 0x4C#8
  | .jmpInd _ => 0x6C#8
  | .jsr _ => 0x20#8
  | .rts => 0x60#8
  | .bpl _ => 0x10#8
  | .bmi _ => 0x30#8
  | .bvc _ => 0x50#8
  | .bvs _ => 0x70#8
  | .bcc _ => 0x90#8
  | .bcs _ => 0xB0#8
  | .bne _ => 0xD0#8
  | .beq _ => 0xF0#8
  | .pha => 0x48#8
  | .pla => 0x68#8
  | .php => 0x08#8
  | .plp => 0x28#8
  | .clc => 0x18#8
  | .sec => 0x38#8
  | .cli => 0x58#8
  | .sei => 0x78#8
  | .cld => 0xD8#8
  | .sed => 0xF8#8
  | .clv => 0xB8#8
  | .nop => 0xEA#8
  | .brk => 0x00#8
  | .rti => 0x40#8

/-- The operand bytes of an address form, low byte first (30_encoding.md R121). -/
def AddrForm.bytes : AddrForm → List Byte
  | .zp z | .zpx z | .zpy z | .izx z | .izy z => [z]
  | .rel off => [off]
  | .abs w | .abx w | .aby w | .ind w => [loByte w, hiByte w]

/-- The operand bytes of an operand (30_encoding.md R121). -/
def Operand.bytes : Operand → List Byte
  | .imp | .acc => []
  | .imm v => [v]
  | .mem f => f.bytes

/-- The bytes of an instruction, in ascending address order (30_encoding.md R120, R121). -/
def encode (i : Instr) : List Byte := i.opcode :: i.operand.bytes

/-- One row of the encoding list of an operation: its mode, opcode, length in bytes. -/
structure EncodingRow where
  mode : Mode
  opcode : Byte
  bytes : Nat
deriving DecidableEq, Repr

/-- The instruction an opcode byte stands for, with every operand bit zero. -/
def opcodeInstr (op : Byte) : Option Instr := (decode [op, 0x00#8, 0x00#8]).instr?

/-- The encodings the opcode map holds for an operation, in rising opcode order. -/
def encodingsOf (o : Op) : List EncodingRow :=
  (List.range 256).filterMap fun n =>
    match opcodeInstr (BitVec.ofNat 8 n) with
    | some i => if i.op = o then some ⟨i.mode, BitVec.ofNat 8 n, i.length⟩ else none
    | none => none

/-- The three bytes of a table word: byte `k` holds bits `8k+7..8k` of `w`; the bits from `nbits` up are zero. -/
def tableBytes (nbits w : Nat) : List Byte :=
  let v := w % 2 ^ nbits
  [BitVec.ofNat 8 v, BitVec.ofNat 8 (v >>> 8), BitVec.ofNat 8 (v >>> 16)]

/-- The instruction the decoder reads from a table word, its bits numbered as spec/opcode_table.json numbers them. -/
def decodeTableWord (nbits w : Nat) : Option Instr := (decode (tableBytes nbits w)).instr?

end Sys2Proof
end

