-- ==== Sys2Proof/Machine/Memory.lean ====
section
/-! DEFINITION. Storage in normal form: sparse lists sorted by address, the byte memories made of them, and
the raster layers. Every byte memory of the machine reads 0x00 where it lists nothing, because every memory
is zero after RESET (10_state.md R61, decision D39; log 4). -/

namespace Sys2Proof.Machine

/-- The value a sparse list holds at key `a`. -/
def sparseFind {α : Type} : List (Nat × α) → Nat → Option α
  | [], _ => none
  | (k, v) :: t, a => if a = k then some v else sparseFind t a

/-- Put `v` at key `a`, keeping the keys in rising order. -/
def sparseInsert {α : Type} : List (Nat × α) → Nat → α → List (Nat × α)
  | [], a, v => [(a, v)]
  | (k, u) :: t, a, v =>
    if a < k then (a, v) :: (k, u) :: t
    else if a = k then (a, v) :: t
    else (k, u) :: sparseInsert t a v

/-- Remove every entry at key `a`. -/
def sparseErase {α : Type} (l : List (Nat × α)) (a : Nat) : List (Nat × α) :=
  l.filter fun c => c.1 != a

/-- The keys rise strictly and every key is at least `b`. -/
def sortedFrom {α : Type} : Nat → List (Nat × α) → Bool
  | _, [] => true
  | b, (k, _) :: t => decide (b ≤ k) && sortedFrom (k + 1) t

/-- A byte memory: (address, byte) pairs in canonical form. -/
abbrev Memory := List Host.Cell

/-- What an address reads as that the memory does not list (10_state.md R61, D39; log 4). -/
def unlistedByte : Byte := 0x00#8

/-- The byte at an address. -/
def Memory.read (m : Memory) (a : Nat) : Byte := (sparseFind m a).getD unlistedByte

/-- Store a byte. Storing what an unlisted address reads as removes the entry, so the form stays canonical. -/
def Memory.write (m : Memory) (a : Nat) (v : Byte) : Memory :=
  if v = unlistedByte then sparseErase m a else sparseInsert m a v

/-- The canonical form of a memory of `size` bytes: addresses strictly rising, all below `size`, no entry
equal to what an unlisted address reads as. -/
def Memory.wf (size : Nat) (m : Memory) : Bool :=
  sortedFrom 0 m && m.all fun c => decide (c.1 < size) && c.2 != unlistedByte

/-- A raster layer: the cells that are not `Empty`, by key `256 * row + column` (10_state.md R48). -/
abbrev Layer (α : Type) := List (Nat × α)

/-- The number of cells of a layer: 240 rows of 256 (10_state.md R48). -/
def layerCells : Nat := 240 * 256

/-- The key of the cell in row `y`, column `x`. -/
def layerKey (y x : Nat) : Nat := 256 * y + x

/-- The cell in row `y`, column `x`; `none` is `Empty`. -/
def Layer.cell {α : Type} (l : Layer α) (y x : Nat) : Option α := sparseFind l (layerKey y x)

/-- Overwrite the `n` cells from key `lo` on, all of them, with `f key`. -/
def Layer.replaceRun {α : Type} (l : Layer α) (lo n : Nat) (f : Nat → α) : Layer α :=
  (l.filter fun c => decide (c.1 < lo)) ++ (List.range n).map (fun k => (lo + k, f (lo + k)))
    ++ (l.filter fun c => decide (lo + n ≤ c.1))

/-- The canonical form of a layer: keys strictly rising and inside the raster. -/
def Layer.wf {α : Type} (l : Layer α) : Bool :=
  sortedFrom 0 l && l.all fun c => decide (c.1 < layerCells)

end Sys2Proof.Machine
end

