-- ==== Sys2Proof/Config.lean ====
section
/-! DEFINITION. What is fixed for one machine: the named parameters of 00_scope.md R17 and the cartridge of
R16. They are plain data, held in `State` in fields that no step writes, so that a claim about every state is
a claim about every parameter value (log 1). The model has no free value: the spec fixes or names a parameter
for everything its source leaves open (93_implementation_defined.md Part 1). -/

namespace Sys2Proof

/-- `RESET_REGS` (70_reset_and_hazards.md R471): what RESET gives the registers and flags the source does not mention. -/
structure ResetRegs where
  a : Byte
  x : Byte
  y : Byte
  sp : Byte
  n : Bool
  v : Bool
  b : Bool
  d : Bool
  z : Bool
  c : Bool
deriving DecidableEq, Repr

/-- The named parameters of 00_scope.md R17. -/
structure Config where
  /-- `BASE_CYCLES[0..255]` (70_reset_and_hazards.md R490), by opcode. -/
  baseCycles : List Nat
  /-- `PAGE_CROSS_PENALTY` (30_encoding.md R140). -/
  pageCrossPenalty : Bool
  /-- `DMA_PENALTY` (48_sync_dma_joypad.md R412). -/
  dmaPenalty : Nat
  /-- `BRK_GATED` (44_stack_flags_system.md R262). -/
  brkGated : Bool
  /-- `RESET_REGS` (70_reset_and_hazards.md R471). -/
  resetRegs : ResetRegs
  /-- `APU_HALF_FRAME` (47_apu_channels.md R380). -/
  apuHalfFrame : Nat
  /-- `CPU_HZ` (47_apu_channels.md R390). -/
  cpuHz : Nat
deriving DecidableEq, Repr

/-- Nametable mirroring, header byte 6 bit 0 (00_scope.md R16; 10_state.md R60). -/
inductive Mirroring where
  | horizontal
  | vertical
deriving DecidableEq, Repr

/-- The number of 16 KiB program banks: 1 or 2 (00_scope.md R15). -/
inductive PrgBanks where
  | one
  | two
deriving DecidableEq, Repr

/-- The cartridge as CORE receives it (00_scope.md R16). -/
structure Cartridge where
  /-- Header byte 4. -/
  prgBanks : PrgBanks
  /-- `PRG`, the program ROM image, by offset. -/
  prg : Machine.Memory
  /-- `CHR`: character ROM, or none (then the character memory is RAM, 20_memory.md R92). -/
  chr : Option Machine.Memory
  /-- `MIRRORING`. -/
  mirroring : Mirroring
deriving DecidableEq, Repr

end Sys2Proof
end

