-- ==== Sys2Proof/Machine/Parameters.lean ====
section
/-! DEFINITION. The default values of the named parameters (00_scope.md R17; 70_reset_and_hazards.md R471, R490). -/

namespace Sys2Proof

namespace Config

/-- Rows 0x to 3x of the cycle table (70_reset_and_hazards.md R490); an illegal opcode has no count and holds 0. -/
def baseCycles0 : List Nat :=
  [7, 6, 0, 0, 0, 3, 5, 0, 3, 2, 2, 0, 0, 4, 6, 0] ++
  [2, 5, 0, 0, 0, 4, 6, 0, 2, 4, 0, 0, 0, 4, 7, 0] ++
  [6, 6, 0, 0, 3, 3, 5, 0, 4, 2, 2, 0, 4, 4, 6, 0] ++
  [2, 5, 0, 0, 0, 4, 6, 0, 2, 4, 0, 0, 0, 4, 7, 0]

/-- Rows 4x to 7x of the cycle table. -/
def baseCycles4 : List Nat :=
  [6, 6, 0, 0, 0, 3, 5, 0, 3, 2, 2, 0, 3, 4, 6, 0] ++
  [2, 5, 0, 0, 0, 4, 6, 0, 2, 4, 0, 0, 0, 4, 7, 0] ++
  [6, 6, 0, 0, 0, 3, 5, 0, 4, 2, 2, 0, 5, 4, 6, 0] ++
  [2, 5, 0, 0, 0, 4, 6, 0, 2, 4, 0, 0, 0, 4, 7, 0]

/-- Rows 8x to Bx of the cycle table. -/
def baseCycles8 : List Nat :=
  [0, 6, 0, 0, 3, 3, 3, 0, 2, 0, 2, 0, 4, 4, 4, 0] ++
  [2, 6, 0, 0, 4, 4, 4, 0, 2, 5, 2, 0, 0, 5, 0, 0] ++
  [2, 6, 2, 0, 3, 3, 3, 0, 2, 2, 2, 0, 4, 4, 4, 0] ++
  [2, 5, 0, 0, 4, 4, 4, 0, 2, 4, 2, 0, 4, 4, 4, 0]

/-- Rows Cx to Fx of the cycle table. -/
def baseCyclesC : List Nat :=
  [2, 6, 0, 0, 3, 3, 5, 0, 2, 2, 2, 0, 4, 4, 6, 0] ++
  [2, 5, 0, 0, 0, 4, 6, 0, 2, 4, 0, 0, 0, 4, 7, 0] ++
  [2, 6, 0, 0, 3, 3, 5, 0, 2, 2, 2, 0, 4, 4, 6, 0] ++
  [2, 5, 0, 0, 0, 4, 6, 0, 2, 4, 0, 0, 0, 4, 7, 0]

/-- The defaults of 00_scope.md R17 and 70_reset_and_hazards.md R471, R490. -/
def default : Config where
  baseCycles := baseCycles0 ++ baseCycles4 ++ baseCycles8 ++ baseCyclesC
  pageCrossPenalty := true
  dmaPenalty := 513
  brkGated := true
  resetRegs :=
    { a := 0x00#8, x := 0x00#8, y := 0x00#8, sp := 0xFD#8,
      n := false, v := false, b := false, d := false, z := false, c := false }
  apuHalfFrame := 14915
  cpuHz := 1789773

/-- A usable parameter set: one cycle count per opcode value, and a half-frame of at least one cycle (without
which the loop of 47_apu_channels.md R380 would not end; log 16). -/
def wf (c : Config) : Bool := decide (c.baseCycles.length = 256) && decide (0 < c.apuHalfFrame)

end Config

end Sys2Proof
end

