-- ==== Sys2Proof/Machine/Cartridge.lean ====
section
/-! DEFINITION. Reading the cartridge: the ROM window, the RESET vector, the nametable topology
(20_memory.md R78, R79, R93) and the blank cartridge of `State.reset` (log 2). -/

namespace Sys2Proof

/-- `PRG_SIZE`: 16384 bytes a bank (00_scope.md R15). -/
def Cartridge.prgSize (c : Cartridge) : Nat :=
  match c.prgBanks with
  | .one => 16384
  | .two => 32768

/-- The offset in `PRG` of the ROM-window address `a`: `(a - 0x8000) mod PRG_SIZE` (20_memory.md R78). -/
def Cartridge.prgOffset (c : Cartridge) (a : Word) : Nat := (a.toNat - 0x8000) % c.prgSize

/-- The program ROM byte a read of the ROM-window address `a` returns (20_memory.md R78). -/
def Cartridge.prgByte (c : Cartridge) (a : Word) : Byte := c.prg.read (c.prgOffset a)

/-- `Read16(0xFFFC)`, the RESET vector (20_memory.md R79; 70_reset_and_hazards.md R470). -/
def Cartridge.resetVector (c : Cartridge) : Word :=
  Machine.mkWord (c.prgByte 0xFFFD#16) (c.prgByte 0xFFFC#16)

/-- The reset contents of the character memory: `CHR`, or 8192 zero bytes of RAM (10_state.md R61; 20_memory.md R92). -/
def Cartridge.chrContents (c : Cartridge) : Machine.Memory := c.chr.getD []

/-- A well-formed cartridge: its memories are in canonical form and inside their sizes (70_reset_and_hazards.md R473). -/
def Cartridge.wf (c : Cartridge) : Bool :=
  Machine.Memory.wf c.prgSize c.prg && Machine.Memory.wf 8192 c.chrContents

/-- The cartridge of `State.reset`: one bank, all zero, no character ROM, horizontal mirroring. It holds no
program; a program is loaded from outside the machine (log 2). -/
def Cartridge.blank : Cartridge where
  prgBanks := .one
  prg := []
  chr := none
  mirroring := .horizontal

end Sys2Proof
end

