-- ==== Sys2Proof/Machine/State.lean ====
section
/-! DEFINITION. The state of the machine as plain data (10_state.md), what stops it, and the state after RESET. -/

namespace Sys2Proof.Machine

/-- The status flags, one-bit cells (10_state.md R25). The reserved flag `P.R` is 1 in every state and no rule
writes it, so it has no cell: `Flags.r` reads 1 (log 11). -/
structure Flags where
  /-- Negative -/
  n : Bool
  /-- Overflow -/
  v : Bool
  /-- Break -/
  b : Bool
  /-- Decimal -/
  d : Bool
  /-- InterruptDisable -/
  i : Bool
  /-- Zero -/
  z : Bool
  /-- Carry -/
  c : Bool
deriving DecidableEq, Repr

/-- A pixel of the background layer (10_state.md R48): a 6-bit colour and the `opaque` flag. -/
structure BgPixel where
  colour : BitVec 6
  solid : Bool
deriving DecidableEq, Repr

/-- A pixel of the sprite layer (10_state.md R48). -/
structure SpritePixel where
  colour : BitVec 6
  behind : Bool
deriving DecidableEq, Repr

/-- The PPU's state (10_state.md R36 to R48). -/
structure Ppu where
  /-- control register 1 (R36) -/
  ctrl1 : Byte
  /-- control register 2 (R37) -/
  ctrl2 : Byte
  /-- status bit 7 (R38) -/
  vblank : Bool
  /-- status bit 6 (R38) -/
  sprite0Hit : Bool
  /-- status bit 5 (R38) -/
  spriteOverflow : Bool
  /-- OAM pointer (R39) -/
  oamAddr : Byte
  /-- VRAM address (R40) -/
  vramAddr : Word
  /-- the two-write latch: true means the next write is the second (R40) -/
  w : Bool
  /-- R41 -/
  scrollX : Byte
  /-- R41 -/
  scrollY : Byte
  /-- read-ahead buffer (R42) -/
  readBuffer : Byte
  /-- two physical nametables, 2048 bytes (R43) -/
  ntRam : Memory
  /-- 32 bytes (R43) -/
  palette : Memory
  /-- pattern tables, 8192 bytes (R43) -/
  chr : Memory
  /-- 64 sprites of 4 bytes (R44) -/
  oam : Memory
  /-- dot within the line, 0 to 340 (R45) -/
  dot : Nat
  /-- line within the frame, 0 to 261 (R45) -/
  line : Nat
  /-- background layer (R48) -/
  bgLayer : Layer BgPixel
  /-- sprite layer (R48) -/
  spriteLayer : Layer SpritePixel
deriving DecidableEq, Repr

/-- One pulse channel (10_state.md R50). -/
structure Pulse where
  duty : BitVec 2
  halt : Bool
  volume : BitVec 4
  /-- 11 bits (90_conflicts.md C1) -/
  period : BitVec 11
  /-- 0 to 254 -/
  length : Byte
  enabled : Bool
  swEnable : Bool
  swRate : BitVec 3
  swNegate : Bool
  swShift : BitVec 3
  /-- sweep divider -/
  swDiv : BitVec 3
  swReload : Bool
deriving DecidableEq, Repr

/-- The APU's state (10_state.md R50, R51). -/
structure Apu where
  pulse1 : Pulse
  pulse2 : Pulse
  /-- the byte last written to 0x4008; bit 7 is the length halt -/
  triCtrl : Byte
  triPeriod : BitVec 11
  /-- 0 to 254 -/
  triLength : Byte
  triEnabled : Bool
  /-- the noise stub's 4 bytes -/
  noiseReg : Memory
  noiseEnabled : Bool
  /-- the APU cycle accumulator `apu_acc` -/
  acc : Nat
deriving DecidableEq, Repr

/-- The joypad port's state (10_state.md R52). -/
structure Pad where
  strobe : Bool
  shift : Byte
  /-- position of the next bit to return, 0 to 7 -/
  index : BitVec 3
deriving DecidableEq, Repr

/-- The whole machine. -/
structure State where
  /-- accumulator (10_state.md R22) -/
  a : Byte
  /-- index register X (R22) -/
  x : Byte
  /-- index register Y (R22) -/
  y : Byte
  /-- stack pointer (R23) -/
  sp : Byte
  /-- program counter (R24) -/
  pc : Word
  /-- status flags (R25) -/
  p : Flags
  /-- executed cycles, telemetry (R32) -/
  totalCycles : Nat
  /-- additional cycles of the step in progress; 0 between steps (R32; log 7) -/
  extra : Nat
  /-- the NMI request cell (R33) -/
  nmiPending : Bool
  /-- work RAM, 0x0800 bytes (R34) -/
  ram : Memory
  /-- picture processor -/
  ppu : Ppu
  /-- sound processor -/
  apu : Apu
  /-- joypad port -/
  pad : Pad
  /-- input: the level of the maskable interrupt request (00_scope.md R18; log 5) -/
  irqLine : Bool
  /-- input: the button vector (00_scope.md R18; log 5) -/
  padInput : Byte
  /-- output: the result of the last `PPU.run` (46_ppu_rendering_timing.md R320; log 6) -/
  frameReady : Bool
  /-- configuration: the cartridge; no step writes it (00_scope.md R16; log 1) -/
  cart : Cartridge
  /-- configuration: the parameters; no step writes them (00_scope.md R17; log 1) -/
  cfg : Config
deriving DecidableEq, Repr

/-- Why the machine stops. -/
inductive Fault where
  /-- `Fault(IllegalOpcode, opcode, addr)`: raised by `step` when the opcode byte it fetches is one of the 105
  illegal values (30_encoding.md R150). The state is never final and no later step exists. Safe: the model stops
  where the emulated part does something (log 10). -/
  | illegalOpcode (opcode : Byte) (addr : Word)
deriving DecidableEq, Repr

/-- Why the model gives no answer. -/
inductive Refusal where
  /-- Raised by `exec`'s arm of an instruction that has no meaning yet; no arm answers it now. Safe. -/
  | notModelled (mnemonic : String)
deriving DecidableEq, Repr

/-- The flags after RESET: `RESET_REGS` and `P.I` = 1 (70_reset_and_hazards.md R470). -/
def Flags.powerOn (r : ResetRegs) : Flags :=
  { n := r.n, v := r.v, b := r.b, d := r.d, i := true, z := r.z, c := r.c }

/-- The PPU after RESET (10_state.md R61). -/
def Ppu.powerOn (cart : Cartridge) : Ppu :=
  { ctrl1 := 0x00#8, ctrl2 := 0x00#8, vblank := false, sprite0Hit := false, spriteOverflow := false,
    oamAddr := 0x00#8, vramAddr := 0x0000#16, w := false, scrollX := 0x00#8, scrollY := 0x00#8,
    readBuffer := 0x00#8, ntRam := [], palette := [], chr := cart.chrContents, oam := [],
    dot := 0, line := 0, bgLayer := [], spriteLayer := [] }

/-- A pulse channel after RESET (10_state.md R61). -/
def Pulse.powerOn : Pulse :=
  { duty := 0#2, halt := false, volume := 0#4, period := 0#11, length := 0x00#8, enabled := false,
    swEnable := false, swRate := 0#3, swNegate := false, swShift := 0#3, swDiv := 0#3, swReload := false }

/-- The APU after RESET (10_state.md R61). -/
def Apu.powerOn : Apu :=
  { pulse1 := Pulse.powerOn, pulse2 := Pulse.powerOn, triCtrl := 0x00#8, triPeriod := 0#11,
    triLength := 0x00#8, triEnabled := false, noiseReg := [], noiseEnabled := false, acc := 0 }

/-- The joypad port after RESET (10_state.md R61). -/
def Pad.powerOn : Pad := { strobe := false, shift := 0x00#8, index := 0#3 }

/-- The machine right after RESET, for any parameters and any cartridge (10_state.md R61; 70_reset_and_hazards.md
R470). The two inputs are low until the host sets them (log 5). -/
def State.powerOn (cfg : Config) (cart : Cartridge) : State :=
  { a := cfg.resetRegs.a, x := cfg.resetRegs.x, y := cfg.resetRegs.y, sp := cfg.resetRegs.sp,
    pc := cart.resetVector, p := Flags.powerOn cfg.resetRegs, totalCycles := 0, extra := 0,
    nmiPending := false, ram := [], ppu := Ppu.powerOn cart, apu := Apu.powerOn, pad := Pad.powerOn,
    irqLine := false, padInput := 0x00#8, frameReady := false, cart := cart, cfg := cfg }

/-- The machine right after RESET with the default parameters and the blank cartridge (log 2). -/
def State.reset : State := State.powerOn Config.default Cartridge.blank

end Sys2Proof.Machine
end

