-- ==== Sys2Proof/Machine/Apu.lean ====
section
/-! DEFINITION. The APU: registers, length counters, sweep, time, and the output tuples (47_apu_channels.md). -/

namespace Sys2Proof.Machine

/-- `LENGTH_TABLE` (47_apu_channels.md R372), selectors 0 to 31. -/
def lengthTable : List Byte :=
  [10#8, 254#8, 20#8, 2#8, 40#8, 4#8, 80#8, 6#8, 160#8, 8#8, 60#8, 10#8, 14#8, 12#8, 26#8, 14#8] ++
  [12#8, 16#8, 24#8, 18#8, 48#8, 20#8, 96#8, 22#8, 192#8, 24#8, 72#8, 26#8, 16#8, 28#8, 32#8, 30#8]

/-- The length the 5-bit selector in bits 7:3 of a length register gives. -/
def lengthOf (v : Byte) : Byte := lengthTable.getD (field v 3 5) 0x00#8

/-- Replace bits 7:0 of a period (47_apu_channels.md R369). -/
def periodLow (p : BitVec 11) (v : Byte) : BitVec 11 := p.extractLsb' 8 3 ++ v

/-- Replace bits 10:8 of a period by bits 2:0 of `v` (47_apu_channels.md R370; 90_conflicts.md C1). -/
def periodHigh (p : BitVec 11) (v : Byte) : BitVec 11 := v.extractLsb' 0 3 ++ p.extractLsb' 0 8

/-- A write to register `n` (0 to 3) of a pulse channel (47_apu_channels.md R365, R367 to R370). -/
def pulseWrite (p : Pulse) (n : Nat) (v : Byte) : Pulse :=
  match n with
  | 0 => { p with duty := v.extractLsb' 6 2, halt := v.getLsbD 5, volume := v.extractLsb' 0 4 }
  | 1 => { p with swEnable := v.getLsbD 7, swRate := v.extractLsb' 4 3, swNegate := v.getLsbD 3,
                  swShift := v.extractLsb' 0 3, swReload := true }
  | 2 => { p with period := periodLow p.period v }
  | _ => { p with period := periodHigh p.period v, length := if p.enabled then lengthOf v else p.length }

/-- Set a pulse channel's enable; disabling zeroes its length (47_apu_channels.md R374). -/
def pulseEnable (p : Pulse) (on : Bool) : Pulse :=
  { p with enabled := on, length := if on then p.length else 0x00#8 }

/-- `EnableWrite(v)` (47_apu_channels.md R374). -/
def apuEnableWrite (u : Apu) (v : Byte) : Apu :=
  { u with pulse1 := pulseEnable u.pulse1 (v.getLsbD 0), pulse2 := pulseEnable u.pulse2 (v.getLsbD 1),
           triEnabled := v.getLsbD 2, triLength := if v.getLsbD 2 then u.triLength else 0x00#8,
           noiseEnabled := v.getLsbD 3 }

/-- `ApuWrite(addr, v)` (47_apu_channels.md R365, R371, R373, R376). -/
def apuWrite (u : Apu) (addr : Nat) (v : Byte) : Apu :=
  if 0x4000 ≤ addr ∧ addr ≤ 0x4003 then { u with pulse1 := pulseWrite u.pulse1 (addr % 4) v }
  else if 0x4004 ≤ addr ∧ addr ≤ 0x4007 then { u with pulse2 := pulseWrite u.pulse2 (addr % 4) v }
  else if addr = 0x4008 then { u with triCtrl := v }
  else if addr = 0x400A then { u with triPeriod := periodLow u.triPeriod v }
  else if addr = 0x400B then
    { u with triPeriod := periodHigh u.triPeriod v,
             triLength := if u.triEnabled then lengthOf v else u.triLength }
  else if 0x400C ≤ addr ∧ addr ≤ 0x400F then { u with noiseReg := u.noiseReg.write (addr - 0x400C) v }
  else if addr = 0x4015 then apuEnableWrite u v
  else u

/-- `StatusByte()` (47_apu_channels.md R375). -/
def apuStatusByte (u : Apu) : Byte :=
  0#5 ++ BitVec.ofBool (u.triLength != 0x00#8) ++ BitVec.ofBool (u.pulse2.length != 0x00#8) ++
    BitVec.ofBool (u.pulse1.length != 0x00#8)

/-- `ApuRead(addr)` (47_apu_channels.md R366): no read changes any state. -/
def apuRead (u : Apu) (addr : Nat) : Byte := if addr = 0x4015 then apuStatusByte u else 0x00#8

/-- The length clock of a pulse channel (47_apu_channels.md R381). -/
def pulseLengthClock (p : Pulse) : Pulse :=
  if !p.halt && p.length != 0x00#8 then { p with length := p.length - 1#8 } else p

/-- The period the sweep aims at (47_apu_channels.md R382). -/
def sweepTarget (p : Pulse) : Nat :=
  let delta := p.period.toNat >>> p.swShift.toNat
  if p.swNegate then p.period.toNat - delta else p.period.toNat + delta

/-- The sweep's guards (47_apu_channels.md R382). -/
def sweepActs (p : Pulse) : Bool :=
  p.swDiv == 0#3 && p.swEnable && decide (0 < p.swShift.toNat) && decide (8 ≤ p.period.toNat)
    && decide (sweepTarget p ≤ 0x7FF)

/-- The sweep clock of a pulse channel (47_apu_channels.md R382). -/
def pulseSweepClock (p : Pulse) : Pulse :=
  let p1 := if sweepActs p then { p with period := BitVec.ofNat 11 (sweepTarget p) } else p
  if p.swDiv == 0#3 || p.swReload then { p1 with swDiv := p.swRate, swReload := false }
  else { p1 with swDiv := p.swDiv - 1#3 }

/-- The length clock of the triangle (47_apu_channels.md R381). -/
def triLengthClock (u : Apu) : Apu :=
  if !u.triCtrl.getLsbD 7 && u.triLength != 0x00#8 then { u with triLength := u.triLength - 1#8 } else u

/-- `HalfFrame()`: for each pulse channel length then sweep, then the triangle's length (47_apu_channels.md R380). -/
def halfFrame (u : Apu) : Apu :=
  triLengthClock { u with pulse1 := pulseSweepClock (pulseLengthClock u.pulse1),
                          pulse2 := pulseSweepClock (pulseLengthClock u.pulse2) }

/-- The loop of `APU.run` (47_apu_channels.md R380), at most `fuel` times round, for half-frames of `h` cycles. -/
def halfFrameLoop (h : Nat) : Nat → Apu → Apu
  | 0, u => u
  | fuel + 1, u => if u.acc < h then u else halfFrameLoop h fuel (halfFrame { u with acc := u.acc - h })

/-- `APU.run(c)` (47_apu_channels.md R380). The fuel is the number of whole half-frames in the accumulator, so the
loop ends by its own test whenever `h` is positive; with `h` = 0, which no usable parameter set has, nothing is
clocked (log 16). -/
def apuRun (h c : Nat) (u : Apu) : Apu :=
  halfFrameLoop h ((u.acc + c) / h) { u with acc := u.acc + c }

/-- The shape member of an output tuple (47_apu_channels.md R391, R392). -/
inductive WaveShape where
  /-- square wave of the given duty -/
  | square (duty : BitVec 2)
  /-- fixed linear ramp -/
  | triangle
deriving DecidableEq, Repr

/-- An output tuple of a channel (47_apu_channels.md R392). The frequency is the exact rational `freqNum / freqDen`
in hertz (R390; log 20); `volume` is none where the channel has only its full level. -/
structure AudioTuple where
  freqNum : Nat
  freqDen : Nat
  shape : WaveShape
  active : Bool
  remaining : Byte
  volume : Option (BitVec 4)
deriving DecidableEq, Repr

/-- The output tuple of a pulse channel (47_apu_channels.md R390, R392). -/
def pulseOut (cpuHz : Nat) (p : Pulse) : AudioTuple :=
  { freqNum := cpuHz, freqDen := 16 * (p.period.toNat + 1), shape := .square p.duty,
    active := p.enabled && p.length != 0x00#8, remaining := p.length, volume := some p.volume }

/-- The output tuple of the triangle channel (47_apu_channels.md R390, R392). -/
def triangleOut (cpuHz : Nat) (u : Apu) : AudioTuple :=
  { freqNum := cpuHz, freqDen := 32 * (u.triPeriod.toNat + 1), shape := .triangle,
    active := u.triEnabled && u.triLength != 0x00#8, remaining := u.triLength, volume := none }

/-- What the audio sink may read between steps: pulse 1, pulse 2, triangle; the noise stub has no tuple
(47_apu_channels.md R392, R373). -/
def audioOut (s : State) : List AudioTuple :=
  [pulseOut s.cfg.cpuHz s.apu.pulse1, pulseOut s.cfg.cpuHz s.apu.pulse2, triangleOut s.cfg.cpuHz s.apu]

end Sys2Proof.Machine
end

