-- ==== Sys2Proof/Machine/Flags.lean ====
section
/-! DEFINITION. The status byte and every flag computation (10_state.md R25, R26, R29; 00_scope.md R14; files 41
and 42 of spec/). Sums are exact natural numbers, reduced at the end (R10). -/

namespace Sys2Proof.Machine

/-- `P.R`: always set (10_state.md R25). -/
def Flags.r (_ : Flags) : Bool := true

/-- `Pack(b)`: the status byte with bit 4 taken from `b` (10_state.md R25). -/
def Flags.pack (p : Flags) (b : Bool) : Byte :=
  BitVec.ofBool p.n ++ BitVec.ofBool p.v ++ BitVec.ofBool p.r ++ BitVec.ofBool b ++
    BitVec.ofBool p.d ++ BitVec.ofBool p.i ++ BitVec.ofBool p.z ++ BitVec.ofBool p.c

/-- `Unpack(v)`: the flags a pulled status byte gives; bit 5 is ignored (10_state.md R26). -/
def Flags.unpack (v : Byte) : Flags :=
  { n := v.getLsbD 7, v := v.getLsbD 6, b := v.getLsbD 4, d := v.getLsbD 3, i := v.getLsbD 2,
    z := v.getLsbD 1, c := v.getLsbD 0 }

/-- `SetZN(v)`: Zero = result==0; Negative = bit 7 of result (00_scope.md R14). -/
def Flags.setZN (p : Flags) (v : Byte) : Flags := { p with z := v == 0x00#8, n := v.getLsbD 7 }

/-- A byte result and the flags that go with it. -/
structure AluResult where
  value : Byte
  flags : Flags
deriving DecidableEq, Repr

/-- `ADC` of `a` and `m` with the carry of `p` (41_arithmetic_logic.md R181). -/
def adcResult (a m : Byte) (p : Flags) : AluResult :=
  let sum := a.toNat + m.toNat + bit01 p.c
  let r := BitVec.ofNat 8 sum
  { value := r
    flags := ({ p with c := decide (255 < sum),
                       v := (a.getLsbD 7 == m.getLsbD 7) && (r.getLsbD 7 != a.getLsbD 7) }).setZN r }

/-- `SBC` of `a` and `m` with the carry of `p` (41_arithmetic_logic.md R182). -/
def sbcResult (a m : Byte) (p : Flags) : AluResult :=
  let mc := m ^^^ 0xFF#8
  let sum := a.toNat + mc.toNat + bit01 p.c
  let r := BitVec.ofNat 8 sum
  { value := r
    flags := ({ p with c := decide (255 < sum),
                       v := (a.getLsbD 7 != m.getLsbD 7) && (r.getLsbD 7 != a.getLsbD 7) }).setZN r }

/-- The flags of `CMP`, `CPX`, `CPY`: register `r` against memory `m` (41_arithmetic_logic.md R187 to R189). -/
def compareFlags (r m : Byte) (p : Flags) : Flags :=
  { p with c := decide (m.toNat ≤ r.toNat), z := r == m, n := (r - m).getLsbD 7 }

/-- The flags of `BIT` (41_arithmetic_logic.md R190). -/
def bitFlags (a m : Byte) (p : Flags) : Flags :=
  { p with z := (a &&& m) == 0x00#8, n := m.getLsbD 7, v := m.getLsbD 6 }

/-- `INC` of a byte (41_arithmetic_logic.md R191): the sum wraps, C and V stay. -/
def incResult (v : Byte) (p : Flags) : AluResult := { value := v + 1#8, flags := p.setZN (v + 1#8) }

/-- `DEC` of a byte (41_arithmetic_logic.md R192): the difference wraps, C and V stay. -/
def decResult (v : Byte) (p : Flags) : AluResult := { value := v - 1#8, flags := p.setZN (v - 1#8) }

/-- `ASL` of a byte (42_shift_rotate.md R211). -/
def aslResult (v : Byte) (p : Flags) : AluResult :=
  let r := v <<< 1
  { value := r, flags := ({ p with c := v.getLsbD 7 }).setZN r }

/-- `LSR` of a byte (42_shift_rotate.md R212). -/
def lsrResult (v : Byte) (p : Flags) : AluResult :=
  let r := v >>> 1
  { value := r, flags := ({ p with c := v.getLsbD 0 }).setZN r }

/-- `ROL` of a byte through the carry (42_shift_rotate.md R213). -/
def rolResult (v : Byte) (p : Flags) : AluResult :=
  let r := (v <<< 1) ||| BitVec.ofNat 8 (bit01 p.c)
  { value := r, flags := ({ p with c := v.getLsbD 7 }).setZN r }

/-- `ROR` of a byte through the carry (42_shift_rotate.md R214). -/
def rorResult (v : Byte) (p : Flags) : AluResult :=
  let r := (v >>> 1) ||| (BitVec.ofNat 8 (bit01 p.c) <<< 7)
  { value := r, flags := ({ p with c := v.getLsbD 0 }).setZN r }

end Sys2Proof.Machine
end

