-- ==== Sys2Proof/Machine/Pad.lean ====
section
/-! DEFINITION. The joypad port at 0x4016 (48_sync_dma_joypad.md R420 to R423). -/

namespace Sys2Proof.Machine

/-- `PadWrite(v)` (48_sync_dma_joypad.md R421): the strobe. -/
def padWrite (input : Byte) (u : Pad) (v : Byte) : Pad :=
  if v.getLsbD 0 then { strobe := true, shift := input, index := 0#3 } else { u with strobe := false }

/-- A button bit as the byte a read returns: 0x00 or 0x01 (48_sync_dma_joypad.md R422). -/
def buttonByte (b : Bool) : Byte := 0#7 ++ BitVec.ofBool b

/-- `PadRead()` (48_sync_dma_joypad.md R422): with the strobe high, reload and give button A; with it low, give the
next latched bit and advance modulo 8 (R423). -/
def padRead (input : Byte) (u : Pad) : Byte × Pad :=
  if u.strobe then (buttonByte (input.getLsbD 0), { u with shift := input, index := 0#3 })
  else (buttonByte (u.shift.getLsbD u.index.toNat), { u with index := u.index + 1#3 })

end Sys2Proof.Machine
end

