-- ==== Sys2Proof/Machine/Ppu.lean ====
section
/-! DEFINITION. The PPU address space (20_memory.md R90 to R97) and the eight PPU registers with their side effects
(45_ppu_registers.md). The PPU owns its memories: these functions take and give the PPU's own state. -/

namespace Sys2Proof.Machine

/-- `NtIndex(a')` (20_memory.md R93): the physical nametable byte of a PPU address in 0x2000 to 0x3EFF. -/
def ntIndex (mir : Mirroring) (a : Nat) : Nat :=
  let t := (a - 0x2000) % 0x1000 / 0x400
  let phys := match mir with
    | .horizontal => t / 2
    | .vertical => t % 2
  phys * 0x400 + a % 0x400

/-- `PalIndex(a')` (20_memory.md R95): 32 entries, with 0x10, 0x14, 0x18, 0x1C aliasing 0x00, 0x04, 0x08, 0x0C. -/
def palIndex (a : Nat) : Nat :=
  let i := a % 32
  if i = 0x10 ∨ i = 0x14 ∨ i = 0x18 ∨ i = 0x1C then i - 0x10 else i

/-- `PpuRead(a)` for any natural `a` (20_memory.md R90). -/
def ppuRead (cart : Cartridge) (u : Ppu) (a : Nat) : Byte :=
  let a := a % 0x4000
  if a ≤ 0x1FFF then u.chr.read a
  else if a ≤ 0x3EFF then u.ntRam.read (ntIndex cart.mirroring a)
  else u.palette.read (palIndex a)

/-- `PpuWrite(a, v)` for any natural `a` (20_memory.md R91): a write to character ROM is ignored. -/
def ppuWrite (cart : Cartridge) (u : Ppu) (a : Nat) (v : Byte) : Ppu :=
  let a := a % 0x4000
  if a ≤ 0x1FFF then
    match cart.chr with
    | none => { u with chr := u.chr.write a v }
    | some _ => u
  else if a ≤ 0x3EFF then { u with ntRam := u.ntRam.write (ntIndex cart.mirroring a) v }
  else { u with palette := u.palette.write (palIndex a) v }

/-- `nt_select` (10_state.md R36), bits 1:0 of `ctrl1`, the low bit. -/
def Ppu.ntSelect0 (u : Ppu) : Bool := u.ctrl1.getLsbD 0

/-- `nt_select` (10_state.md R36), the high bit. -/
def Ppu.ntSelect1 (u : Ppu) : Bool := u.ctrl1.getLsbD 1

/-- `vram_inc` (10_state.md R36). -/
def Ppu.vramInc (u : Ppu) : Bool := u.ctrl1.getLsbD 2

/-- `sprite_table` (10_state.md R36). -/
def Ppu.spriteTable (u : Ppu) : Bool := u.ctrl1.getLsbD 3

/-- `bg_table` (10_state.md R36). -/
def Ppu.bgTable (u : Ppu) : Bool := u.ctrl1.getLsbD 4

/-- `nmi_enable` (10_state.md R36). -/
def Ppu.nmiEnable (u : Ppu) : Bool := u.ctrl1.getLsbD 7

/-- `bg_enable` (10_state.md R37). -/
def Ppu.bgEnable (u : Ppu) : Bool := u.ctrl2.getLsbD 3

/-- `sprite_enable` (10_state.md R37). -/
def Ppu.spriteEnable (u : Ppu) : Bool := u.ctrl2.getLsbD 4

/-- `VramStep()` (45_ppu_registers.md R302). -/
def Ppu.vramStep (u : Ppu) : Word := if u.vramInc then 32#16 else 1#16

/-- The status byte: `vblank`, `sprite0_hit`, `sprite_overflow` in bits 7, 6, 5, bits 4:0 zero (45_ppu_registers.md R282). -/
def Ppu.statusByte (u : Ppu) : Byte :=
  BitVec.ofBool u.vblank ++ BitVec.ofBool u.sprite0Hit ++ BitVec.ofBool u.spriteOverflow ++ 0#5

/-- `StatusRead()`: the byte, and the PPU after the read clears `vblank` and `w` (45_ppu_registers.md R282). -/
def ppuStatusRead (u : Ppu) : Byte × Ppu := (u.statusByte, { u with vblank := false, w := false })

/-- `DataRead()` (45_ppu_registers.md R300): delayed by the buffer below the palette region, at once inside it. -/
def ppuDataRead (cart : Cartridge) (u : Ppu) : Byte × Ppu :=
  let a := u.vramAddr.toNat % 0x4000
  if a < 0x3F00 then
    (u.readBuffer, { u with readBuffer := ppuRead cart u a, vramAddr := u.vramAddr + u.vramStep })
  else
    (ppuRead cart u a,
      { u with readBuffer := ppuRead cart u (a - 0x1000), vramAddr := u.vramAddr + u.vramStep })

/-- `PpuRegRead(n)` (45_ppu_registers.md R272): registers 0, 1, 3, 5, 6 read 0x00 without effect. -/
def ppuRegRead (cart : Cartridge) (u : Ppu) (n : Nat) : Byte × Ppu :=
  match n with
  | 2 => ppuStatusRead u
  | 4 => (u.oam.read u.oamAddr.toNat, u)
  | 7 => ppuDataRead cart u
  | _ => (0x00#8, u)

/-- Register 4 write (45_ppu_registers.md R288). -/
def ppuOamWrite (u : Ppu) (v : Byte) : Ppu :=
  { u with oam := u.oam.write u.oamAddr.toNat v, oamAddr := u.oamAddr + 1#8 }

/-- Register 5 write (45_ppu_registers.md R292). -/
def ppuScrollWrite (u : Ppu) (v : Byte) : Ppu :=
  if u.w then { u with scrollY := v, w := false } else { u with scrollX := v, w := true }

/-- Register 6 write (45_ppu_registers.md R295): the high byte lands at once. -/
def ppuAddrWrite (u : Ppu) (v : Byte) : Ppu :=
  if u.w then { u with vramAddr := mkWord (hiByte u.vramAddr) v, w := false }
  else { u with vramAddr := mkWord v (loByte u.vramAddr), w := true }

/-- Register 7 write (45_ppu_registers.md R301). -/
def ppuDataWrite (cart : Cartridge) (u : Ppu) (v : Byte) : Ppu :=
  let u' := ppuWrite cart u u.vramAddr.toNat v
  { u' with vramAddr := u.vramAddr + u.vramStep }

/-- `PpuRegWrite(n, v)` (45_ppu_registers.md R273); a write to register 2 is ignored (R283). -/
def ppuRegWrite (cart : Cartridge) (u : Ppu) (n : Nat) (v : Byte) : Ppu :=
  match n with
  | 0 => { u with ctrl1 := v }
  | 1 => { u with ctrl2 := v }
  | 3 => { u with oamAddr := v }
  | 4 => ppuOamWrite u v
  | 5 => ppuScrollWrite u v
  | 6 => ppuAddrWrite u v
  | 7 => ppuDataWrite cart u v
  | _ => u

end Sys2Proof.Machine
end

