-- ==== Sys2Proof/Machine/Render.lean ====
section
/-! DEFINITION. Rendering into the two output layers and the sprite flags (46_ppu_rendering_timing.md R330 to R347),
and the actions at a line end (R322 to R327). -/

namespace Sys2Proof.Machine

/-- The base address of a pattern table (20_memory.md R92). -/
def tableBase (second : Bool) : Nat := if second then 0x1000 else 0x0000

/-- `TilePixel(base, t, fx, fy)`: the 2-bit pixel, 0 to 3 (46_ppu_rendering_timing.md R331). -/
def tilePixel (cart : Cartridge) (u : Ppu) (base t fx fy : Nat) : Nat :=
  let lo := ppuRead cart u (base + 16 * t + fy)
  let hi := ppuRead cart u (base + 16 * t + 8 + fy)
  bit01 (lo.getLsbD (7 - fx)) + 2 * bit01 (hi.getLsbD (7 - fx))

/-- The 6-bit colour a palette address holds: the low 6 bits of its byte (20_memory.md R95). -/
def paletteColour (cart : Cartridge) (u : Ppu) (a : Nat) : BitVec 6 := (ppuRead cart u a).setWidth 6

/-- The background pixel at row `y`, column `x`: the body of `RenderBand` (46_ppu_rendering_timing.md R335). -/
def bgPixelAt (cart : Cartridge) (u : Ppu) (y x : Nat) : BgPixel :=
  let sx := (x + u.scrollX.toNat + 256 * bit01 u.ntSelect0) % 512
  let sy := (y + u.scrollY.toNat + 240 * bit01 u.ntSelect1) % 480
  let n := 2 * (sy / 240) + sx / 256
  let tx := sx % 256 / 8
  let ty := sy % 240 / 8
  let tile := ppuRead cart u (0x2000 + 0x400 * n + 32 * ty + tx)
  let attr := ppuRead cart u (0x2000 + 0x400 * n + 0x3C0 + 8 * (ty / 4) + tx / 4)
  let shift := 4 * (ty % 4 / 2) + 2 * (tx % 4 / 2)
  let pal := field attr shift 2
  let px := tilePixel cart u (tableBase u.bgTable) tile.toNat (sx % 8) (sy % 8)
  { colour := paletteColour cart u (0x3F00 + 4 * pal + px), solid := px != 0 }

/-- `RenderBand(L)`: rows `L` to `L + 7` of the background layer, every cell of them (46_ppu_rendering_timing.md R335). -/
def renderBand (cart : Cartridge) (u : Ppu) (l : Nat) : Ppu :=
  { u with bgLayer :=
      u.bgLayer.replaceRun (layerKey l 0) (8 * 256) fun k => bgPixelAt cart u (k / 256) (k % 256) }

/-- One pixel of a sprite: row `r`, column `c` of its 8 by 8 tile (46_ppu_rendering_timing.md R341). Transparent
pixels and pixels beyond the edges leave the layer as it was. -/
def drawSpritePixel (cart : Cartridge) (u : Ppu) (l : Nat) (t attr x : Byte) (r c : Nat) : Ppu :=
  let fx := if attr.getLsbD 6 then 7 - c else c
  let fy := if attr.getLsbD 7 then 7 - r else r
  let px := tilePixel cart u (tableBase u.spriteTable) t.toNat fx fy
  if px ≠ 0 ∧ l + r ≤ 239 ∧ x.toNat + c ≤ 255 then
    let pixel : SpritePixel :=
      { colour := paletteColour cart u (0x3F10 + 4 * field attr 0 2 + px), behind := attr.getLsbD 5 }
    { u with spriteLayer := sparseInsert u.spriteLayer (layerKey (l + r) (x.toNat + c)) pixel }
  else u

/-- The (row, column) pairs of an 8 by 8 tile in the order of the loops of 46_ppu_rendering_timing.md R341. -/
def tileCells : List (Nat × Nat) :=
  (List.range 8).flatMap fun r => (List.range 8).map fun c => (r, c)

/-- `DrawSprite(L, T, At, X)` (46_ppu_rendering_timing.md R341). -/
def drawSprite (cart : Cartridge) (u : Ppu) (l : Nat) (t attr x : Byte) : Ppu :=
  tileCells.foldl (fun u rc => drawSpritePixel cart u l t attr x rc.1 rc.2) u

/-- What a matching entry `i` among the first eight does: entry 0 sets the sprite-0 flag (46_ppu_rendering_timing.md
R345), and the entry is drawn if sprites are enabled (R347). -/
def spriteMatch (cart : Cartridge) (u : Ppu) (l i : Nat) : Ppu :=
  let u1 := if i = 0 then { u with sprite0Hit := true } else u
  if u1.spriteEnable then
    drawSprite cart u1 l (u1.oam.read (4 * i + 1)) (u1.oam.read (4 * i + 2)) (u1.oam.read (4 * i + 3))
  else u1

/-- The scan of `SpriteLine(L)` over the OAM entries still to be looked at, with `count` matches so far
(46_ppu_rendering_timing.md R340). The ninth match sets the overflow flag and ends the scan (R346). -/
def spriteScan (cart : Cartridge) (l : Nat) : List Nat → Nat → Ppu → Ppu
  | [], _, u => u
  | i :: rest, count, u =>
    if (u.oam.read (4 * i)).toNat ≠ l then spriteScan cart l rest count u
    else if count = 8 then { u with spriteOverflow := true }
    else spriteScan cart l rest (count + 1) (spriteMatch cart u l i)

/-- `SpriteLine(L)`: all 64 entries in index order (46_ppu_rendering_timing.md R340). -/
def spriteLine (cart : Cartridge) (u : Ppu) (l : Nat) : Ppu := spriteScan cart l (List.range 64) 0 u

/-- `RenderLine(L)` (46_ppu_rendering_timing.md R330). -/
def renderLine (cart : Cartridge) (u : Ppu) (l : Nat) : Ppu :=
  spriteLine cart (if l % 8 = 0 ∧ u.bgEnable then renderBand cart u l else u) l

/-- `FrameRestart()` (46_ppu_rendering_timing.md R327). -/
def frameRestart (u : Ppu) : Ppu :=
  { u with vblank := false, sprite0Hit := false, spriteOverflow := false, spriteLayer := [], line := 0 }

/-- `VblankEntry()` (46_ppu_rendering_timing.md R326): the flag, the NMI request if enabled, frame ready. -/
def vblankEntry (s : State) : State :=
  { s with ppu.vblank := true, nmiPending := s.nmiPending || s.ppu.nmiEnable, frameReady := true }

/-- What happens when line `L` = `line` completes: render it if visible, advance, then vblank entry or frame
restart (46_ppu_rendering_timing.md R322, R323). -/
def endLine (s : State) : State :=
  let l := s.ppu.line
  let s1 := if l ≤ 239 then { s with ppu := renderLine s.cart s.ppu l } else s
  let s2 := { s1 with ppu.line := l + 1 }
  let s3 := if l + 1 = 241 then vblankEntry s2 else s2
  if l + 1 = 262 then { s3 with ppu := frameRestart s3.ppu } else s3

/-- The loop of `PPU.run` (46_ppu_rendering_timing.md R322), at most `fuel` times round: while the dot counter is
past the line, take one line off it and perform that line's action. -/
def lineLoop : Nat → State → State
  | 0, s => s
  | fuel + 1, s =>
    if s.ppu.dot < 341 then s else lineLoop fuel (endLine { s with ppu.dot := s.ppu.dot - 341 })

/-- `PPU.run(c)` (46_ppu_rendering_timing.md R322): 3 dots a cycle. The result goes to `frameReady` (log 6). The
fuel is the number of whole lines in the dot count, so the loop always ends by its own test (log 16). -/
def ppuRun (c : Nat) (s : State) : State :=
  let s1 := { s with ppu.dot := s.ppu.dot + 3 * c, frameReady := false }
  lineLoop (s1.ppu.dot / 341) s1

end Sys2Proof.Machine
end

