-- ==== Sys2Proof/Machine/Ops.lean ====
section
/-! DEFINITION. The shared operations: the CPU bus (20_memory.md R70 to R79), OAM DMA, the stack (10_state.md R27),
instruction fetch (30_encoding.md R126), taking an interrupt and returning from it (60_exceptions.md), the end of a
step, and what the host may do between steps. Every bus read gives the byte and the state after it, because a read
can have side effects (20_memory.md R83). -/

namespace Sys2Proof.Machine

/-- A read of an IO-window address, 0x4000 to 0x401F (20_memory.md R72, R76): the joypad at 0x4016, else the APU. -/
def ioRead (addr : Word) (s : State) : Byte × State :=
  if addr = 0x4016#16 then
    let r := padRead s.padInput s.pad
    (r.1, { s with pad := r.2 })
  else (apuRead s.apu addr.toNat, s)

/-- `MemRead(addr, 1)`, the CPU bus read (20_memory.md R72). -/
def memRead (addr : Word) (s : State) : Byte × State :=
  if addr.toNat ≤ 0x1FFF then (s.ram.read (addr.toNat % 0x0800), s)
  else if addr.toNat ≤ 0x3FFF then
    let r := ppuRegRead s.cart s.ppu (addr.toNat % 8)
    (r.1, { s with ppu := r.2 })
  else if addr.toNat ≤ 0x401F then ioRead addr s
  else if addr.toNat ≤ 0x7FFF then (0x00#8, s)
  else (s.cart.prgByte addr, s)

/-- The copy loop of `OamDma(v)` over the offsets still to be copied (48_sync_dma_joypad.md R410): an ordinary bus
read of `v::i`, then a write of `oam[(oam_addr + i) mod 256]`. -/
def oamDmaLoop (page : Byte) : List Nat → State → State
  | [], s => s
  | i :: rest, s =>
    let r := memRead (mkWord page (BitVec.ofNat 8 i)) s
    oamDmaLoop page rest
      { r.2 with ppu.oam := r.2.ppu.oam.write ((r.2.ppu.oamAddr.toNat + i) % 256) r.1 }

/-- `OamDma(v)`: 256 bytes in ascending order, then the penalty (48_sync_dma_joypad.md R410, R412). -/
def oamDma (page : Byte) (s : State) : State :=
  let t := oamDmaLoop page (List.range 256) s
  { t with extra := t.extra + t.cfg.dmaPenalty }

/-- A write of an IO-window address, 0x4000 to 0x401F (20_memory.md R73, R76). -/
def ioWrite (addr : Word) (v : Byte) (s : State) : State :=
  if addr = 0x4014#16 then oamDma v s
  else if addr = 0x4016#16 then { s with pad := padWrite s.padInput s.pad v }
  else { s with apu := apuWrite s.apu addr.toNat v }

/-- `MemWrite(addr, 1, v)`, the CPU bus write (20_memory.md R73); ROM and unmapped addresses ignore it (R77, R78). -/
def memWrite (addr : Word) (v : Byte) (s : State) : State :=
  if addr.toNat ≤ 0x1FFF then { s with ram := s.ram.write (addr.toNat % 0x0800) v }
  else if addr.toNat ≤ 0x3FFF then { s with ppu := ppuRegWrite s.cart s.ppu (addr.toNat % 8) v }
  else if addr.toNat ≤ 0x401F then ioWrite addr v s
  else s

/-- `Read16(a)`, low byte read first (00_scope.md R12). -/
def read16 (a : Word) (s : State) : Word × State :=
  let l := memRead a s
  let h := memRead (a + 1#16) l.2
  (mkWord h.1 l.1, h.2)

/-- The stack address of a stack pointer value: `0x0100 + SP` (10_state.md R27). -/
def stackAddr (sp : Byte) : Word := mkWord 0x01#8 sp

/-- `Push(v)` (10_state.md R27). -/
def push (v : Byte) (s : State) : State :=
  let t := memWrite (stackAddr s.sp) v s
  { t with sp := s.sp - 1#8 }

/-- `Pull()` (10_state.md R27). -/
def pull (s : State) : Byte × State := memRead (stackAddr (s.sp + 1#8)) { s with sp := s.sp + 1#8 }

/-- `Fetch()`: the byte at PC, and PC advanced modulo 65536 (30_encoding.md §3; 10_state.md R24). -/
def fetchByte (s : State) : Byte × State :=
  let r := memRead s.pc s
  (r.1, { r.2 with pc := s.pc + 1#16 })

/-- Fetch `n` bytes in ascending address order. -/
def fetchBytes : Nat → State → List Byte × State
  | 0, s => ([], s)
  | n + 1, s =>
    let b := fetchByte s
    let r := fetchBytes n b.2
    (b.1 :: r.1, r.2)

/-- What a fetch gives: the opcode byte, the instruction (none if the opcode is illegal), and the state with PC past
the bytes fetched. -/
structure Fetched where
  opcode : Byte
  instr : Option Instr
  after : State
deriving DecidableEq, Repr

/-- Fetch the opcode and the operand bytes its mode has, and decode them (30_encoding.md R126). After an illegal
opcode nothing more is fetched (R150). -/
def fetchInstr (s : State) : Fetched :=
  let o := fetchByte s
  let r := fetchBytes (operandCount o.1) o.2
  { opcode := o.1, instr := (decode (o.1 :: r.1)).instr?, after := r.2 }

/-- The events that enter a handler through the stack (60_exceptions.md R431, R445). -/
inductive InterruptKind where
  | nmi
  | irq
  | brk
deriving DecidableEq, Repr

/-- The address of an event's vector (20_memory.md R79; 60_exceptions.md R445). -/
def interruptVector : InterruptKind → Word
  | .nmi => 0xFFFA#16
  | .irq => 0xFFFE#16
  | .brk => 0xFFFE#16

/-- `Interrupt(kind)`, trap entry (60_exceptions.md R445): set B, push PC high, PC low and the status byte, set I,
load the vector. -/
def interrupt (k : InterruptKind) (s : State) : State :=
  let s1 := { s with p.b := decide (k = .brk) }
  let s2 := push (hiByte s1.pc) s1
  let s3 := push (loByte s1.pc) s2
  let s4 := push (s3.p.pack s3.p.b) s3
  let s5 := { s4 with p.i := true }
  let v := read16 (interruptVector k) s5
  { v.2 with pc := v.1 }

/-- Return from interrupt: pull the status byte into the flags, then PC low, then PC high
(44_stack_flags_system.md R263; 60_exceptions.md R450). -/
def returnFromInterrupt (s : State) : State :=
  let f := pull s
  let s1 := { f.2 with p := Flags.unpack f.1 }
  let l := pull s1
  let h := pull l.2
  { h.2 with pc := mkWord h.1 l.1 }

/-- `PollInterrupts()` (60_exceptions.md R440): at most one entry, NMI before IRQ; taking an NMI acknowledges it. -/
def pollInterrupts (s : State) : State :=
  if s.nmiPending then interrupt .nmi { s with nmiPending := false }
  else if s.irqLine && !s.p.i then interrupt .irq s
  else s

/-- `BASE_CYCLES[opcode]` (70_reset_and_hazards.md R490); 0 past the end of a table that is too short (log 32). -/
def baseCycles (cfg : Config) (op : Byte) : Nat := cfg.baseCycles.getD op.toNat 0

/-- The cycle count of a step whose instruction has the given opcode (30_encoding.md R126; 70_reset_and_hazards.md R491). -/
def stepCycles (op : Byte) (s : State) : Nat := baseCycles s.cfg op + s.extra

/-- The end of an iteration: count the cycles, then run the PPU and the APU for them (30_encoding.md R126;
48_sync_dma_joypad.md R400, R402). `extra` does not live between steps (10_state.md R32; log 7). -/
def endStep (op : Byte) (s : State) : State :=
  let c := stepCycles op s
  let s1 := { s with totalCycles := s.totalCycles + c, extra := 0 }
  let s2 := ppuRun c s1
  { s2 with apu := apuRun s2.cfg.apuHalfFrame c s2.apu }

/-- The start of a CPU step: no additional cycles yet, then the interrupt poll (30_encoding.md R126). -/
def beginStep (s : State) : State := pollInterrupts { s with extra := 0 }

/-- RESET of the machine, which the host applies between steps: the whole power-on state, the cartridge, the
parameters and the host's inputs as they are (70_reset_and_hazards.md R470; log 9). -/
def State.hostReset (s : State) : State :=
  { State.powerOn s.cfg s.cart with irqLine := s.irqLine, padInput := s.padInput }

/-- The host sets the inputs between steps (00_scope.md R18). -/
def State.withInputs (s : State) (irq : Bool) (buttons : Byte) : State :=
  { s with irqLine := irq, padInput := buttons }

/-- What the video sink may read between steps (46_ppu_rendering_timing.md R350). -/
structure VideoOut where
  background : Layer BgPixel
  sprites : Layer SpritePixel
  ctrl2 : Byte
  frameReady : Bool
deriving DecidableEq, Repr

/-- The video outputs (46_ppu_rendering_timing.md R350). -/
def videoOut (s : State) : VideoOut :=
  { background := s.ppu.bgLayer, sprites := s.ppu.spriteLayer, ctrl2 := s.ppu.ctrl2, frameReady := s.frameReady }

/-- A read of one CPU bus address without its side effects: the byte `memRead` would return. -/
def State.peek (s : State) (a : Word) : Byte := (memRead a s).1

/-- The address holds plain storage a program can be placed in: work RAM or program ROM. -/
def isStorage (a : Word) : Bool := decide (a.toNat ≤ 0x1FFF) || decide (0x8000 ≤ a.toNat)

/-- Place a byte of a program in work RAM or in the cartridge's program ROM, from outside the machine (log 2). -/
def placeByte (s : State) (a : Word) (v : Byte) : State :=
  if a.toNat ≤ 0x1FFF then { s with ram := s.ram.write (a.toNat % 0x0800) v }
  else if 0x8000 ≤ a.toNat then { s with cart.prg := s.cart.prg.write (s.cart.prgOffset a) v }
  else s

/-- Place bytes at consecutive addresses from `a` on. -/
def placeBytes : List Byte → Word → State → State
  | [], _, s => s
  | b :: rest, a, s => placeBytes rest (a + 1#16) (placeByte s a b)

end Sys2Proof.Machine
end

