-- ==== Sys2Proof/Machine/Operands.lean ====
section
/-! DEFINITION. Resolving the addressing modes and accessing the operand they name (30_encoding.md R127 to R140). The
operand bytes are already fetched and PC is past the instruction, as in `Execute` of R126 (log 8). -/

namespace Sys2Proof.Machine

/-- What resolving an address form gives: the effective address, whether indexing crossed a page, and the state after
the pointer reads. -/
structure Resolved where
  ea : Word
  crossed : Bool
  after : State
deriving DecidableEq, Repr

/-- A page is crossed when the high bytes of the base and of the sum differ (30_encoding.md R134). -/
def pageCrossed (base ea : Word) : Bool := hiByte ea != hiByte base

/-- `Resolve(mode)` for the modes that name an address (30_encoding.md R130 to R139). -/
def resolve : AddrForm → State → Resolved
  | .zp z, s => { ea := zext16 z, crossed := false, after := s }
  | .zpx z, s => { ea := zext16 (z + s.x), crossed := false, after := s }
  | .zpy z, s => { ea := zext16 (z + s.y), crossed := false, after := s }
  | .abs w, s => { ea := w, crossed := false, after := s }
  | .abx w, s =>
    let ea := w + zext16 s.x
    { ea := ea, crossed := pageCrossed w ea, after := s }
  | .aby w, s =>
    let ea := w + zext16 s.y
    { ea := ea, crossed := pageCrossed w ea, after := s }
  | .ind w, s =>
    let l := memRead w s
    let h := memRead (mkWord (hiByte w) (loByte w + 1#8)) l.2
    { ea := mkWord h.1 l.1, crossed := false, after := h.2 }
  | .izx z, s =>
    let l := memRead (zext16 (z + s.x)) s
    let h := memRead (zext16 (z + s.x + 1#8)) l.2
    { ea := mkWord h.1 l.1, crossed := false, after := h.2 }
  | .izy z, s =>
    let l := memRead (zext16 z) s
    let h := memRead (zext16 (z + 1#8)) l.2
    let base := mkWord h.1 l.1
    let ea := base + zext16 h.2.y
    { ea := ea, crossed := pageCrossed base ea, after := h.2 }
  | .rel off, s => { ea := s.pc + sext16 off, crossed := false, after := s }

/-- The page-crossing penalty of a read instruction (30_encoding.md R140): one additional cycle, if it is modelled and
the index crossed a page. Only the 23 indexed read opcodes can have `crossed` true. -/
def chargeCrossing (r : Resolved) : State :=
  if r.crossed && r.after.cfg.pageCrossPenalty then { r.after with extra := r.after.extra + 1 } else r.after

/-- Read the operand of a read instruction: resolve, charge a page crossing, one bus read (30_encoding.md R126, R140). -/
def readMem (f : AddrForm) (s : State) : Byte × State :=
  let r := resolve f s
  memRead r.ea (chargeCrossing r)

/-- Store to the operand's address: resolve, one bus write and no read; a store takes no page-crossing penalty
(40_load_store_transfer.md R163). -/
def storeMem (f : AddrForm) (v : Byte) (s : State) : State :=
  let r := resolve f s
  memWrite r.ea v r.after

/-- Read, modify, write: exactly one bus read and then one bus write of the operand's address, no page-crossing
penalty (20_memory.md R82; 42_shift_rotate.md R210). -/
def modifyMem (f : AddrForm) (g : Byte → Flags → AluResult) (s : State) : State :=
  let r := resolve f s
  let m := memRead r.ea r.after
  let o := g m.1 m.2.p
  { memWrite r.ea o.value m.2 with p := o.flags }

/-- The accumulator form of a shift or rotate (42_shift_rotate.md R210). -/
def modifyAcc (g : Byte → Flags → AluResult) (s : State) : State :=
  let o := g s.a s.p
  { s with a := o.value, p := o.flags }

end Sys2Proof.Machine
end

