-- ==== Sys2Proof/Machine/Arithmetic.lean ====
section
/-! DEFINITION. Arithmetic, logic, compare, bit test, increment, decrement (41_arithmetic_logic.md R180 to R196). -/

namespace Sys2Proof.Machine

/-- Write an ALU result to A and the flags. -/
def putA (s : State) (o : AluResult) : State := { s with a := o.value, p := o.flags }

/-- `ADC` (R181): `m` is the operand's byte and the state after its read. -/
def addA (m : Byte × State) : State := putA m.2 (adcResult m.2.a m.1 m.2.p)

/-- `SBC` (R182). -/
def subA (m : Byte × State) : State := putA m.2 (sbcResult m.2.a m.1 m.2.p)

/-- `AND` (R184). -/
def andA (m : Byte × State) : State :=
  let r := m.2.a &&& m.1
  { m.2 with a := r, p := m.2.p.setZN r }

/-- `ORA` (R185). -/
def orA (m : Byte × State) : State :=
  let r := m.2.a ||| m.1
  { m.2 with a := r, p := m.2.p.setZN r }

/-- `EOR` (R186). -/
def xorA (m : Byte × State) : State :=
  let r := m.2.a ^^^ m.1
  { m.2 with a := r, p := m.2.p.setZN r }

/-- `CMP` (R187). -/
def compareA (m : Byte × State) : State := { m.2 with p := compareFlags m.2.a m.1 m.2.p }

/-- `CPX` (R188). -/
def compareX (m : Byte × State) : State := { m.2 with p := compareFlags m.2.x m.1 m.2.p }

/-- `CPY` (R189). -/
def compareY (m : Byte × State) : State := { m.2 with p := compareFlags m.2.y m.1 m.2.p }

/-- `BIT` (R190). -/
def testBits (m : Byte × State) : State := { m.2 with p := bitFlags m.2.a m.1 m.2.p }

/-- Write a value to X and set Z and N from it (R193, R195). -/
def putX (s : State) (v : Byte) : State := { s with x := v, p := s.p.setZN v }

/-- Write a value to Y and set Z and N from it (R194, R196). -/
def putY (s : State) (v : Byte) : State := { s with y := v, p := s.p.setZN v }

/-- `ADC #v` (R181, R129). -/
def execAdcImm (v : Byte) (s : State) : Host.Outcome State Fault Refusal :=
  .next (addA (v, s))

/-- `ADC z` (R181, R130). -/
def execAdcZp (z : Byte) (s : State) : Host.Outcome State Fault Refusal :=
  .next (addA (readMem (.zp z) s))

/-- `ADC z,X` (R181, R131). -/
def execAdcZpx (z : Byte) (s : State) : Host.Outcome State Fault Refusal :=
  .next (addA (readMem (.zpx z) s))

/-- `ADC w` (R181, R133). -/
def execAdcAbs (w : Word) (s : State) : Host.Outcome State Fault Refusal :=
  .next (addA (readMem (.abs w) s))

/-- `ADC w,X` (R181, R134). -/
def execAdcAbx (w : Word) (s : State) : Host.Outcome State Fault Refusal :=
  .next (addA (readMem (.abx w) s))

/-- `ADC w,Y` (R181, R135). -/
def execAdcAby (w : Word) (s : State) : Host.Outcome State Fault Refusal :=
  .next (addA (readMem (.aby w) s))

/-- `ADC (z,X)` (R181, R137). -/
def execAdcIzx (z : Byte) (s : State) : Host.Outcome State Fault Refusal :=
  .next (addA (readMem (.izx z) s))

/-- `ADC (z),Y` (R181, R138). -/
def execAdcIzy (z : Byte) (s : State) : Host.Outcome State Fault Refusal :=
  .next (addA (readMem (.izy z) s))

/-- `SBC #v` (R182, R129). -/
def execSbcImm (v : Byte) (s : State) : Host.Outcome State Fault Refusal :=
  .next (subA (v, s))

/-- `SBC z` (R182, R130). -/
def execSbcZp (z : Byte) (s : State) : Host.Outcome State Fault Refusal :=
  .next (subA (readMem (.zp z) s))

/-- `SBC z,X` (R182, R131). -/
def execSbcZpx (z : Byte) (s : State) : Host.Outcome State Fault Refusal :=
  .next (subA (readMem (.zpx z) s))

/-- `SBC w` (R182, R133). -/
def execSbcAbs (w : Word) (s : State) : Host.Outcome State Fault Refusal :=
  .next (subA (readMem (.abs w) s))

/-- `SBC w,X` (R182, R134). -/
def execSbcAbx (w : Word) (s : State) : Host.Outcome State Fault Refusal :=
  .next (subA (readMem (.abx w) s))

/-- `SBC w,Y` (R182, R135). -/
def execSbcAby (w : Word) (s : State) : Host.Outcome State Fault Refusal :=
  .next (subA (readMem (.aby w) s))

/-- `SBC (z,X)` (R182, R137). -/
def execSbcIzx (z : Byte) (s : State) : Host.Outcome State Fault Refusal :=
  .next (subA (readMem (.izx z) s))

/-- `SBC (z),Y` (R182, R138). -/
def execSbcIzy (z : Byte) (s : State) : Host.Outcome State Fault Refusal :=
  .next (subA (readMem (.izy z) s))

/-- `AND #v` (R184, R129). -/
def execAndImm (v : Byte) (s : State) : Host.Outcome State Fault Refusal :=
  .next (andA (v, s))

/-- `AND z` (R184, R130). -/
def execAndZp (z : Byte) (s : State) : Host.Outcome State Fault Refusal :=
  .next (andA (readMem (.zp z) s))

/-- `AND z,X` (R184, R131). -/
def execAndZpx (z : Byte) (s : State) : Host.Outcome State Fault Refusal :=
  .next (andA (readMem (.zpx z) s))

/-- `AND w` (R184, R133). -/
def execAndAbs (w : Word) (s : State) : Host.Outcome State Fault Refusal :=
  .next (andA (readMem (.abs w) s))

/-- `AND w,X` (R184, R134). -/
def execAndAbx (w : Word) (s : State) : Host.Outcome State Fault Refusal :=
  .next (andA (readMem (.abx w) s))

/-- `AND w,Y` (R184, R135). -/
def execAndAby (w : Word) (s : State) : Host.Outcome State Fault Refusal :=
  .next (andA (readMem (.aby w) s))

/-- `AND (z,X)` (R184, R137). -/
def execAndIzx (z : Byte) (s : State) : Host.Outcome State Fault Refusal :=
  .next (andA (readMem (.izx z) s))

/-- `AND (z),Y` (R184, R138). -/
def execAndIzy (z : Byte) (s : State) : Host.Outcome State Fault Refusal :=
  .next (andA (readMem (.izy z) s))

/-- `ORA #v` (R185, R129). -/
def execOraImm (v : Byte) (s : State) : Host.Outcome State Fault Refusal :=
  .next (orA (v, s))

/-- `ORA z` (R185, R130). -/
def execOraZp (z : Byte) (s : State) : Host.Outcome State Fault Refusal :=
  .next (orA (readMem (.zp z) s))

/-- `ORA z,X` (R185, R131). -/
def execOraZpx (z : Byte) (s : State) : Host.Outcome State Fault Refusal :=
  .next (orA (readMem (.zpx z) s))

/-- `ORA w` (R185, R133). -/
def execOraAbs (w : Word) (s : State) : Host.Outcome State Fault Refusal :=
  .next (orA (readMem (.abs w) s))

/-- `ORA w,X` (R185, R134). -/
def execOraAbx (w : Word) (s : State) : Host.Outcome State Fault Refusal :=
  .next (orA (readMem (.abx w) s))

/-- `ORA w,Y` (R185, R135). -/
def execOraAby (w : Word) (s : State) : Host.Outcome State Fault Refusal :=
  .next (orA (readMem (.aby w) s))

/-- `ORA (z,X)` (R185, R137). -/
def execOraIzx (z : Byte) (s : State) : Host.Outcome State Fault Refusal :=
  .next (orA (readMem (.izx z) s))

/-- `ORA (z),Y` (R185, R138). -/
def execOraIzy (z : Byte) (s : State) : Host.Outcome State Fault Refusal :=
  .next (orA (readMem (.izy z) s))

/-- `EOR #v` (R186, R129). -/
def execEorImm (v : Byte) (s : State) : Host.Outcome State Fault Refusal :=
  .next (xorA (v, s))

/-- `EOR z` (R186, R130). -/
def execEorZp (z : Byte) (s : State) : Host.Outcome State Fault Refusal :=
  .next (xorA (readMem (.zp z) s))

/-- `EOR z,X` (R186, R131). -/
def execEorZpx (z : Byte) (s : State) : Host.Outcome State Fault Refusal :=
  .next (xorA (readMem (.zpx z) s))

/-- `EOR w` (R186, R133). -/
def execEorAbs (w : Word) (s : State) : Host.Outcome State Fault Refusal :=
  .next (xorA (readMem (.abs w) s))

/-- `EOR w,X` (R186, R134). -/
def execEorAbx (w : Word) (s : State) : Host.Outcome State Fault Refusal :=
  .next (xorA (readMem (.abx w) s))

/-- `EOR w,Y` (R186, R135). -/
def execEorAby (w : Word) (s : State) : Host.Outcome State Fault Refusal :=
  .next (xorA (readMem (.aby w) s))

/-- `EOR (z,X)` (R186, R137). -/
def execEorIzx (z : Byte) (s : State) : Host.Outcome State Fault Refusal :=
  .next (xorA (readMem (.izx z) s))

/-- `EOR (z),Y` (R186, R138). -/
def execEorIzy (z : Byte) (s : State) : Host.Outcome State Fault Refusal :=
  .next (xorA (readMem (.izy z) s))

/-- `CMP #v` (R187, R129). -/
def execCmpImm (v : Byte) (s : State) : Host.Outcome State Fault Refusal :=
  .next (compareA (v, s))

/-- `CMP z` (R187, R130). -/
def execCmpZp (z : Byte) (s : State) : Host.Outcome State Fault Refusal :=
  .next (compareA (readMem (.zp z) s))

/-- `CMP z,X` (R187, R131). -/
def execCmpZpx (z : Byte) (s : State) : Host.Outcome State Fault Refusal :=
  .next (compareA (readMem (.zpx z) s))

/-- `CMP w` (R187, R133). -/
def execCmpAbs (w : Word) (s : State) : Host.Outcome State Fault Refusal :=
  .next (compareA (readMem (.abs w) s))

/-- `CMP w,X` (R187, R134). -/
def execCmpAbx (w : Word) (s : State) : Host.Outcome State Fault Refusal :=
  .next (compareA (readMem (.abx w) s))

/-- `CMP w,Y` (R187, R135). -/
def execCmpAby (w : Word) (s : State) : Host.Outcome State Fault Refusal :=
  .next (compareA (readMem (.aby w) s))

/-- `CMP (z,X)` (R187, R137). -/
def execCmpIzx (z : Byte) (s : State) : Host.Outcome State Fault Refusal :=
  .next (compareA (readMem (.izx z) s))

/-- `CMP (z),Y` (R187, R138). -/
def execCmpIzy (z : Byte) (s : State) : Host.Outcome State Fault Refusal :=
  .next (compareA (readMem (.izy z) s))

/-- `CPX #v` (R188, R129). -/
def execCpxImm (v : Byte) (s : State) : Host.Outcome State Fault Refusal :=
  .next (compareX (v, s))

/-- `CPX z` (R188, R130). -/
def execCpxZp (z : Byte) (s : State) : Host.Outcome State Fault Refusal :=
  .next (compareX (readMem (.zp z) s))

/-- `CPX w` (R188, R133). -/
def execCpxAbs (w : Word) (s : State) : Host.Outcome State Fault Refusal :=
  .next (compareX (readMem (.abs w) s))

/-- `CPY #v` (R189, R129). -/
def execCpyImm (v : Byte) (s : State) : Host.Outcome State Fault Refusal :=
  .next (compareY (v, s))

/-- `CPY z` (R189, R130). -/
def execCpyZp (z : Byte) (s : State) : Host.Outcome State Fault Refusal :=
  .next (compareY (readMem (.zp z) s))

/-- `CPY w` (R189, R133). -/
def execCpyAbs (w : Word) (s : State) : Host.Outcome State Fault Refusal :=
  .next (compareY (readMem (.abs w) s))

/-- `BIT z` (R190, R130). -/
def execBitZp (z : Byte) (s : State) : Host.Outcome State Fault Refusal :=
  .next (testBits (readMem (.zp z) s))

/-- `BIT w` (R190, R133). -/
def execBitAbs (w : Word) (s : State) : Host.Outcome State Fault Refusal :=
  .next (testBits (readMem (.abs w) s))

/-- `INC z` (R191, R130). -/
def execIncZp (z : Byte) (s : State) : Host.Outcome State Fault Refusal :=
  .next (modifyMem (.zp z) incResult s)

/-- `INC z,X` (R191, R131). -/
def execIncZpx (z : Byte) (s : State) : Host.Outcome State Fault Refusal :=
  .next (modifyMem (.zpx z) incResult s)

/-- `INC w` (R191, R133). -/
def execIncAbs (w : Word) (s : State) : Host.Outcome State Fault Refusal :=
  .next (modifyMem (.abs w) incResult s)

/-- `INC w,X` (R191, R134). -/
def execIncAbx (w : Word) (s : State) : Host.Outcome State Fault Refusal :=
  .next (modifyMem (.abx w) incResult s)

/-- `DEC z` (R192, R130). -/
def execDecZp (z : Byte) (s : State) : Host.Outcome State Fault Refusal :=
  .next (modifyMem (.zp z) decResult s)

/-- `DEC z,X` (R192, R131). -/
def execDecZpx (z : Byte) (s : State) : Host.Outcome State Fault Refusal :=
  .next (modifyMem (.zpx z) decResult s)

/-- `DEC w` (R192, R133). -/
def execDecAbs (w : Word) (s : State) : Host.Outcome State Fault Refusal :=
  .next (modifyMem (.abs w) decResult s)

/-- `DEC w,X` (R192, R134). -/
def execDecAbx (w : Word) (s : State) : Host.Outcome State Fault Refusal :=
  .next (modifyMem (.abx w) decResult s)

/-- `INX`: increment X (R193, R127). -/
def execInx (s : State) : Host.Outcome State Fault Refusal :=
  .next (putX s (s.x + 1#8))

/-- `INY`: increment Y (R194, R127). -/
def execIny (s : State) : Host.Outcome State Fault Refusal :=
  .next (putY s (s.y + 1#8))

/-- `DEX`: decrement X (R195, R127). -/
def execDex (s : State) : Host.Outcome State Fault Refusal :=
  .next (putX s (s.x - 1#8))

/-- `DEY`: decrement Y (R196, R127). -/
def execDey (s : State) : Host.Outcome State Fault Refusal :=
  .next (putY s (s.y - 1#8))

end Sys2Proof.Machine
end

