-- ==== Sys2Proof/Machine/Control.lean ====
section
/-! DEFINITION. Jumps, subroutine call and return, conditional branches (43_control_flow.md R220 to R238). -/

namespace Sys2Proof.Machine

/-- The rule the eight branches share (R230): the target is computed whether or not the branch is taken; no cycle is
ever added. -/
def branchIf (cond : Bool) (off : Byte) (s : State) : State :=
  let r := resolve (.rel off) s
  if cond then { r.after with pc := r.ea } else r.after

/-- `PC <- ea` (R220); nothing is read at `ea`. -/
def jumpTo (f : AddrForm) (s : State) : State :=
  let r := resolve f s
  { r.after with pc := r.ea }

/-- Push the address of the last byte of the instruction, high byte first, then `PC <- ea` (R221). -/
def callTo (f : AddrForm) (s : State) : State :=
  let r := resolve f s
  let ret := r.after.pc - 1#16
  { push (loByte ret) (push (hiByte ret) r.after) with pc := r.ea }

/-- Pull PC low, then PC high, and add one (R222). -/
def returnFromCall (s : State) : State :=
  let l := pull s
  let h := pull l.2
  { h.2 with pc := mkWord h.1 l.1 + 1#16 }

/-- `JMP w` (R220, R133). -/
def execJmpAbs (w : Word) (s : State) : Host.Outcome State Fault Refusal :=
  .next (jumpTo (.abs w) s)

/-- `JMP (w)` (R220, R136). -/
def execJmpInd (w : Word) (s : State) : Host.Outcome State Fault Refusal :=
  .next (jumpTo (.ind w) s)

/-- `JSR w` (R221, R133). -/
def execJsr (w : Word) (s : State) : Host.Outcome State Fault Refusal :=
  .next (callTo (.abs w) s)

/-- `RTS`: return from subroutine (R222, R127). -/
def execRts (s : State) : Host.Outcome State Fault Refusal :=
  .next (returnFromCall s)

/-- `BPL off`: branch if not P.N (R231, R139). -/
def execBpl (off : Byte) (s : State) : Host.Outcome State Fault Refusal :=
  .next (branchIf (!s.p.n) off s)

/-- `BMI off`: branch if P.N (R232, R139). -/
def execBmi (off : Byte) (s : State) : Host.Outcome State Fault Refusal :=
  .next (branchIf (s.p.n) off s)

/-- `BVC off`: branch if not P.V (R233, R139). -/
def execBvc (off : Byte) (s : State) : Host.Outcome State Fault Refusal :=
  .next (branchIf (!s.p.v) off s)

/-- `BVS off`: branch if P.V (R234, R139). -/
def execBvs (off : Byte) (s : State) : Host.Outcome State Fault Refusal :=
  .next (branchIf (s.p.v) off s)

/-- `BCC off`: branch if not P.C (R235, R139). -/
def execBcc (off : Byte) (s : State) : Host.Outcome State Fault Refusal :=
  .next (branchIf (!s.p.c) off s)

/-- `BCS off`: branch if P.C (R236, R139). -/
def execBcs (off : Byte) (s : State) : Host.Outcome State Fault Refusal :=
  .next (branchIf (s.p.c) off s)

/-- `BNE off`: branch if not P.Z (R237, R139). -/
def execBne (off : Byte) (s : State) : Host.Outcome State Fault Refusal :=
  .next (branchIf (!s.p.z) off s)

/-- `BEQ off`: branch if P.Z (R238, R139). -/
def execBeq (off : Byte) (s : State) : Host.Outcome State Fault Refusal :=
  .next (branchIf (s.p.z) off s)

end Sys2Proof.Machine
end

