-- ==== Sys2Proof/Machine/LoadStore.lean ====
section
/-! DEFINITION. Loads, stores and register transfers (40_load_store_transfer.md R160 to R171). Each load takes the byte its
operand reads as and the state after that read. -/

namespace Sys2Proof.Machine

/-- `A <- M; SetZN(A)` (R160): `m` is the operand's byte and the state after its read. -/
def loadA (m : Byte × State) : State := { m.2 with a := m.1, p := m.2.p.setZN m.1 }

/-- `X <- M; SetZN(X)` (R161). -/
def loadX (m : Byte × State) : State := { m.2 with x := m.1, p := m.2.p.setZN m.1 }

/-- `Y <- M; SetZN(Y)` (R162). -/
def loadY (m : Byte × State) : State := { m.2 with y := m.1, p := m.2.p.setZN m.1 }

/-- `LDA #v` (R160, R129). -/
def execLdaImm (v : Byte) (s : State) : Host.Outcome State Fault Refusal :=
  .next (loadA (v, s))

/-- `LDA z` (R160, R130). -/
def execLdaZp (z : Byte) (s : State) : Host.Outcome State Fault Refusal :=
  .next (loadA (readMem (.zp z) s))

/-- `LDA z,X` (R160, R131). -/
def execLdaZpx (z : Byte) (s : State) : Host.Outcome State Fault Refusal :=
  .next (loadA (readMem (.zpx z) s))

/-- `LDA w` (R160, R133). -/
def execLdaAbs (w : Word) (s : State) : Host.Outcome State Fault Refusal :=
  .next (loadA (readMem (.abs w) s))

/-- `LDA w,X` (R160, R134). -/
def execLdaAbx (w : Word) (s : State) : Host.Outcome State Fault Refusal :=
  .next (loadA (readMem (.abx w) s))

/-- `LDA w,Y` (R160, R135). -/
def execLdaAby (w : Word) (s : State) : Host.Outcome State Fault Refusal :=
  .next (loadA (readMem (.aby w) s))

/-- `LDA (z,X)` (R160, R137). -/
def execLdaIzx (z : Byte) (s : State) : Host.Outcome State Fault Refusal :=
  .next (loadA (readMem (.izx z) s))

/-- `LDA (z),Y` (R160, R138). -/
def execLdaIzy (z : Byte) (s : State) : Host.Outcome State Fault Refusal :=
  .next (loadA (readMem (.izy z) s))

/-- `LDX #v` (R161, R129). -/
def execLdxImm (v : Byte) (s : State) : Host.Outcome State Fault Refusal :=
  .next (loadX (v, s))

/-- `LDX z` (R161, R130). -/
def execLdxZp (z : Byte) (s : State) : Host.Outcome State Fault Refusal :=
  .next (loadX (readMem (.zp z) s))

/-- `LDX z,Y` (R161, R132). -/
def execLdxZpy (z : Byte) (s : State) : Host.Outcome State Fault Refusal :=
  .next (loadX (readMem (.zpy z) s))

/-- `LDX w` (R161, R133). -/
def execLdxAbs (w : Word) (s : State) : Host.Outcome State Fault Refusal :=
  .next (loadX (readMem (.abs w) s))

/-- `LDX w,Y` (R161, R135). -/
def execLdxAby (w : Word) (s : State) : Host.Outcome State Fault Refusal :=
  .next (loadX (readMem (.aby w) s))

/-- `LDY #v` (R162, R129). -/
def execLdyImm (v : Byte) (s : State) : Host.Outcome State Fault Refusal :=
  .next (loadY (v, s))

/-- `LDY z` (R162, R130). -/
def execLdyZp (z : Byte) (s : State) : Host.Outcome State Fault Refusal :=
  .next (loadY (readMem (.zp z) s))

/-- `LDY z,X` (R162, R131). -/
def execLdyZpx (z : Byte) (s : State) : Host.Outcome State Fault Refusal :=
  .next (loadY (readMem (.zpx z) s))

/-- `LDY w` (R162, R133). -/
def execLdyAbs (w : Word) (s : State) : Host.Outcome State Fault Refusal :=
  .next (loadY (readMem (.abs w) s))

/-- `LDY w,X` (R162, R134). -/
def execLdyAbx (w : Word) (s : State) : Host.Outcome State Fault Refusal :=
  .next (loadY (readMem (.abx w) s))

/-- `STA z` (R163, R130). -/
def execStaZp (z : Byte) (s : State) : Host.Outcome State Fault Refusal :=
  .next (storeMem (.zp z) s.a s)

/-- `STA z,X` (R163, R131). -/
def execStaZpx (z : Byte) (s : State) : Host.Outcome State Fault Refusal :=
  .next (storeMem (.zpx z) s.a s)

/-- `STA w` (R163, R133). -/
def execStaAbs (w : Word) (s : State) : Host.Outcome State Fault Refusal :=
  .next (storeMem (.abs w) s.a s)

/-- `STA w,X` (R163, R134). -/
def execStaAbx (w : Word) (s : State) : Host.Outcome State Fault Refusal :=
  .next (storeMem (.abx w) s.a s)

/-- `STA w,Y` (R163, R135). -/
def execStaAby (w : Word) (s : State) : Host.Outcome State Fault Refusal :=
  .next (storeMem (.aby w) s.a s)

/-- `STA (z,X)` (R163, R137). -/
def execStaIzx (z : Byte) (s : State) : Host.Outcome State Fault Refusal :=
  .next (storeMem (.izx z) s.a s)

/-- `STA (z),Y` (R163, R138). -/
def execStaIzy (z : Byte) (s : State) : Host.Outcome State Fault Refusal :=
  .next (storeMem (.izy z) s.a s)

/-- `STX z` (R164, R130). -/
def execStxZp (z : Byte) (s : State) : Host.Outcome State Fault Refusal :=
  .next (storeMem (.zp z) s.x s)

/-- `STX z,Y` (R164, R132). -/
def execStxZpy (z : Byte) (s : State) : Host.Outcome State Fault Refusal :=
  .next (storeMem (.zpy z) s.x s)

/-- `STX w` (R164, R133). -/
def execStxAbs (w : Word) (s : State) : Host.Outcome State Fault Refusal :=
  .next (storeMem (.abs w) s.x s)

/-- `STY z` (R165, R130). -/
def execStyZp (z : Byte) (s : State) : Host.Outcome State Fault Refusal :=
  .next (storeMem (.zp z) s.y s)

/-- `STY z,X` (R165, R131). -/
def execStyZpx (z : Byte) (s : State) : Host.Outcome State Fault Refusal :=
  .next (storeMem (.zpx z) s.y s)

/-- `STY w` (R165, R133). -/
def execStyAbs (w : Word) (s : State) : Host.Outcome State Fault Refusal :=
  .next (storeMem (.abs w) s.y s)

/-- `TAX`: copy A to X (R166, R127). -/
def execTax (s : State) : Host.Outcome State Fault Refusal :=
  .next { s with x := s.a, p := s.p.setZN s.a }

/-- `TAY`: copy A to Y (R167, R127). -/
def execTay (s : State) : Host.Outcome State Fault Refusal :=
  .next { s with y := s.a, p := s.p.setZN s.a }

/-- `TXA`: copy X to A (R168, R127). -/
def execTxa (s : State) : Host.Outcome State Fault Refusal :=
  .next { s with a := s.x, p := s.p.setZN s.x }

/-- `TYA`: copy Y to A (R169, R127). -/
def execTya (s : State) : Host.Outcome State Fault Refusal :=
  .next { s with a := s.y, p := s.p.setZN s.y }

/-- `TSX`: copy SP to X (R170, R127). -/
def execTsx (s : State) : Host.Outcome State Fault Refusal :=
  .next { s with x := s.sp, p := s.p.setZN s.sp }

/-- `TXS`: copy X to SP, no flags (R171, R127). -/
def execTxs (s : State) : Host.Outcome State Fault Refusal :=
  .next { s with sp := s.x }

end Sys2Proof.Machine
end

