-- ==== Sys2Proof/Machine/Shift.lean ====
section
/-! DEFINITION. Shift and rotate by one bit (42_shift_rotate.md R210 to R214). -/

namespace Sys2Proof.Machine

/-- `ASL A` (R211, R128). -/
def execAslAcc (s : State) : Host.Outcome State Fault Refusal :=
  .next (modifyAcc aslResult s)

/-- `ASL z` (R211, R130). -/
def execAslZp (z : Byte) (s : State) : Host.Outcome State Fault Refusal :=
  .next (modifyMem (.zp z) aslResult s)

/-- `ASL z,X` (R211, R131). -/
def execAslZpx (z : Byte) (s : State) : Host.Outcome State Fault Refusal :=
  .next (modifyMem (.zpx z) aslResult s)

/-- `ASL w` (R211, R133). -/
def execAslAbs (w : Word) (s : State) : Host.Outcome State Fault Refusal :=
  .next (modifyMem (.abs w) aslResult s)

/-- `ASL w,X` (R211, R134). -/
def execAslAbx (w : Word) (s : State) : Host.Outcome State Fault Refusal :=
  .next (modifyMem (.abx w) aslResult s)

/-- `LSR A` (R212, R128). -/
def execLsrAcc (s : State) : Host.Outcome State Fault Refusal :=
  .next (modifyAcc lsrResult s)

/-- `LSR z` (R212, R130). -/
def execLsrZp (z : Byte) (s : State) : Host.Outcome State Fault Refusal :=
  .next (modifyMem (.zp z) lsrResult s)

/-- `LSR z,X` (R212, R131). -/
def execLsrZpx (z : Byte) (s : State) : Host.Outcome State Fault Refusal :=
  .next (modifyMem (.zpx z) lsrResult s)

/-- `LSR w` (R212, R133). -/
def execLsrAbs (w : Word) (s : State) : Host.Outcome State Fault Refusal :=
  .next (modifyMem (.abs w) lsrResult s)

/-- `LSR w,X` (R212, R134). -/
def execLsrAbx (w : Word) (s : State) : Host.Outcome State Fault Refusal :=
  .next (modifyMem (.abx w) lsrResult s)

/-- `ROL A` (R213, R128). -/
def execRolAcc (s : State) : Host.Outcome State Fault Refusal :=
  .next (modifyAcc rolResult s)

/-- `ROL z` (R213, R130). -/
def execRolZp (z : Byte) (s : State) : Host.Outcome State Fault Refusal :=
  .next (modifyMem (.zp z) rolResult s)

/-- `ROL z,X` (R213, R131). -/
def execRolZpx (z : Byte) (s : State) : Host.Outcome State Fault Refusal :=
  .next (modifyMem (.zpx z) rolResult s)

/-- `ROL w` (R213, R133). -/
def execRolAbs (w : Word) (s : State) : Host.Outcome State Fault Refusal :=
  .next (modifyMem (.abs w) rolResult s)

/-- `ROL w,X` (R213, R134). -/
def execRolAbx (w : Word) (s : State) : Host.Outcome State Fault Refusal :=
  .next (modifyMem (.abx w) rolResult s)

/-- `ROR A` (R214, R128). -/
def execRorAcc (s : State) : Host.Outcome State Fault Refusal :=
  .next (modifyAcc rorResult s)

/-- `ROR z` (R214, R130). -/
def execRorZp (z : Byte) (s : State) : Host.Outcome State Fault Refusal :=
  .next (modifyMem (.zp z) rorResult s)

/-- `ROR z,X` (R214, R131). -/
def execRorZpx (z : Byte) (s : State) : Host.Outcome State Fault Refusal :=
  .next (modifyMem (.zpx z) rorResult s)

/-- `ROR w` (R214, R133). -/
def execRorAbs (w : Word) (s : State) : Host.Outcome State Fault Refusal :=
  .next (modifyMem (.abs w) rorResult s)

/-- `ROR w,X` (R214, R134). -/
def execRorAbx (w : Word) (s : State) : Host.Outcome State Fault Refusal :=
  .next (modifyMem (.abx w) rorResult s)

end Sys2Proof.Machine
end

