-- ==== Sys2Proof/Machine/System.lean ====
section
/-! DEFINITION. Stack, flag, no-operation and system instructions (44_stack_flags_system.md R240 to R263). -/

namespace Sys2Proof.Machine

/-- `PHA`: push A (R240, R127). -/
def execPha (s : State) : Host.Outcome State Fault Refusal :=
  .next (push s.a s)

/-- `PLA`: pull A, set Z and N (R241, R127). -/
def execPla (s : State) : Host.Outcome State Fault Refusal :=
  .next (loadA (pull s))

/-- `PHP`: push the status byte with bits 5 and 4 set (R242, R127). -/
def execPhp (s : State) : Host.Outcome State Fault Refusal :=
  .next (push (s.p.pack true) s)

/-- `PLP`: pull the status byte into the flags (R243, R127). -/
def execPlp (s : State) : Host.Outcome State Fault Refusal :=
  let f := pull s
  .next { f.2 with p := Flags.unpack f.1 }

/-- `CLC`: clear carry (R244, R127). -/
def execClc (s : State) : Host.Outcome State Fault Refusal :=
  .next { s with p.c := false }

/-- `SEC`: set carry (R245, R127). -/
def execSec (s : State) : Host.Outcome State Fault Refusal :=
  .next { s with p.c := true }

/-- `CLI`: clear interrupt-disable (R246, R127). -/
def execCli (s : State) : Host.Outcome State Fault Refusal :=
  .next { s with p.i := false }

/-- `SEI`: set interrupt-disable (R247, R127). -/
def execSei (s : State) : Host.Outcome State Fault Refusal :=
  .next { s with p.i := true }

/-- `CLD`: clear decimal (R248, R127). -/
def execCld (s : State) : Host.Outcome State Fault Refusal :=
  .next { s with p.d := false }

/-- `SED`: set decimal (R249, R127). -/
def execSed (s : State) : Host.Outcome State Fault Refusal :=
  .next { s with p.d := true }

/-- `CLV`: clear overflow (R250, R127). -/
def execClv (s : State) : Host.Outcome State Fault Refusal :=
  .next { s with p.v := false }

/-- `NOP`: nothing but the PC and the cycle count change (R255, R127). -/
def execNop (s : State) : Host.Outcome State Fault Refusal :=
  .next s

/-- `BRK`: software interrupt; gated by `P.I` if `BRK_GATED`, else skip one byte and enter the handler (R262, R127). -/
def execBrk (s : State) : Host.Outcome State Fault Refusal :=
  if s.cfg.brkGated && s.p.i then .next s
  else .next (interrupt .brk { s with pc := s.pc + 1#16 })

/-- `RTI`: return from interrupt (R263, R127). -/
def execRti (s : State) : Host.Outcome State Fault Refusal :=
  .next (returnFromInterrupt s)

end Sys2Proof.Machine
end

