-- ==== Sys2Proof/Machine/Step.lean ====
section
/-! DEFINITION. One iteration of the synchronization loop: interrupt poll, one instruction, then PPU and APU time
(48_sync_dma_joypad.md R400; 30_encoding.md R126), and how a program is placed where it fetches. -/

namespace Sys2Proof.Machine

/-- `Iterate()` (48_sync_dma_joypad.md R400): the step relation of the whole machine. -/
def step (s : State) : Host.Outcome State Fault Refusal :=
  let s0 := beginStep s
  let f := fetchInstr s0
  match f.instr with
  | none => .fault (.illegalOpcode f.opcode s0.pc)
  | some i =>
    match exec i f.after with
    | .next t => .next (endStep i.opcode t)
    | .fault r => .fault r
    | .refused r => .refused r

/-- `RunFrame()` for a host willing to call the loop at most `fuel` times: iterate until frame ready
(48_sync_dma_joypad.md R403). -/
def runFrame : Nat → State → Host.Outcome State Fault Refusal
  | 0, s => .next s
  | fuel + 1, s =>
    match step s with
    | .next t => if t.frameReady then .next t else runFrame fuel t
    | .fault r => .fault r
    | .refused r => .refused r

/-- Where a program's next instruction can be placed: at `PC` if the three bytes from there on are storage, else at
0x0000, the start of work RAM (log 21). -/
def State.placeAt (s : State) : Word :=
  if isStorage s.pc && isStorage (s.pc + 1#16) && isStorage (s.pc + 2#16) then s.pc else 0x0000#16

/-- `s` with an instruction of a table word placed where `step` fetches next. An interrupt that the poll would take
first is withdrawn, since it would fetch elsewhere (log 21). -/
def State.withFetchWord (s : State) (nbits w : Nat) : State :=
  let t := placeBytes (tableBytes nbits w) s.placeAt s
  { t with pc := s.placeAt, nmiPending := false, irqLine := s.irqLine && s.p.i }

end Sys2Proof.Machine
end

