-- ==== Sys2Proof/Safety.lean ====
section
/-! DEFINITION. What a good state and a safe run are, in the terms claims use. -/

namespace Sys2Proof.Machine

/-! ### Terms of the claims about one instruction -/

/-- The pointer a zero-page address holds, its second byte wrapping within the zero page (30_encoding.md R137). -/
def zeroPagePointer (s : State) (z : Byte) : Word :=
  mkWord (s.ram.read (z + 1#8).toNat) (s.ram.read z.toNat)

/-- The vector of an event as the cartridge holds it (20_memory.md R79). -/
def vectorWord (c : Cartridge) (k : InterruptKind) : Word :=
  mkWord (c.prgByte (interruptVector k + 1#16)) (c.prgByte (interruptVector k))

/-- The cost of a page crossing (30_encoding.md R140). -/
def crossingCost (f : AddrForm) (s : State) : Nat :=
  if (resolve f s).crossed && s.cfg.pageCrossPenalty then 1 else 0

/-- The byte an operand reads as, and the state after the read: a memory operand is one bus read at its effective
address, after the page-crossing charge (30_encoding.md R126, R140). -/
def operandByte : Operand → State → Byte × State
  | .imp, s => (0x00#8, s)
  | .acc, s => (s.a, s)
  | .imm v, s => (v, s)
  | .mem f, s => memRead (resolve f s).ea { s with extra := s.extra + crossingCost f s }

/-- One row of the manual's encoding list of an operation: mode, opcode, length in bytes, base cycles. -/
structure ManualRow where
  mode : Mode
  opcode : Byte
  bytes : Nat
  cycles : Nat
deriving DecidableEq, Repr

/-- What the opcode map and the default cycle table say of an operation, in rising opcode order. -/
def manualRows (o : Op) : List ManualRow :=
  (encodingsOf o).map fun r => ⟨r.mode, r.opcode, r.bytes, baseCycles Config.default r.opcode⟩

/-- The address lies in a window of device registers, 0x2000 to 0x401F (20_memory.md R71). -/
def inDeviceWindow (a : Word) : Bool := decide (0x2000 ≤ a.toNat) && decide (a.toNat ≤ 0x401F)

/-- The address lies in the work RAM window (20_memory.md R74). -/
def inRam (a : Word) : Bool := decide (a.toNat ≤ 0x1FFF)

/-- Two addresses name the same work RAM cell (20_memory.md R74). -/
def sameRamCell (a b : Word) : Bool := inRam a && inRam b && a.toNat % 0x0800 == b.toNat % 0x0800

/-- The operations that read their operand and write no memory. -/
def readOps : List Op :=
  [.lda, .ldx, .ldy, .adc, .sbc, .and, .ora, .eor, .cmp, .cpx, .cpy, .bit]

/-- The operations that only store their operand. -/
def storeOps : List Op := [.sta, .stx, .sty]

/-- The operations that read, modify and write their operand (20_memory.md R82). -/
def modifyOps : List Op := [.inc, .dec, .asl, .lsr, .rol, .ror]

/-- The operations that touch the stack (10_state.md R27). -/
def stackOps : List Op := [.pha, .php, .pla, .plp, .jsr, .rts, .brk, .rti]

/-! ### Invariants -/

/-- Every byte memory is in canonical form and inside its size (10_state.md R34, R43, R44, R51; 00_scope.md R16). -/
structure MemoriesWf (s : State) : Prop where
  ram : s.ram.wf 0x0800 = true
  ntRam : s.ppu.ntRam.wf 2048 = true
  palette : s.ppu.palette.wf 32 = true
  chr : s.ppu.chr.wf 8192 = true
  oam : s.ppu.oam.wf 256 = true
  noiseReg : s.apu.noiseReg.wf 4 = true
  cart : s.cart.wf = true

/-- Both raster layers are in canonical form and inside the raster of 240 rows of 256 cells (10_state.md R48). -/
structure LayersWf (s : State) : Prop where
  background : s.ppu.bgLayer.wf = true
  sprites : s.ppu.spriteLayer.wf = true

/-- The PPU's counters are in range between steps: `dot ≤ 340`, `line ≤ 261` (10_state.md R45). -/
structure CountersInRange (s : State) : Prop where
  dot : s.ppu.dot ≤ 340
  line : s.ppu.line ≤ 261

/-- A pulse channel's bounds: length at most 254, and a disabled channel has length 0 (10_state.md R50;
47_apu_channels.md R374, R381). -/
structure PulseWf (p : Pulse) : Prop where
  bound : p.length.toNat ≤ 254
  silent : p.enabled = false → p.length = 0x00#8

/-- The APU's bounds: `apu_acc` below the half-frame, lengths in range, disabled channels silent (10_state.md R51). -/
structure ApuWf (s : State) : Prop where
  acc : s.apu.acc < s.cfg.apuHalfFrame
  pulse1 : PulseWf s.apu.pulse1
  pulse2 : PulseWf s.apu.pulse2
  triBound : s.apu.triLength.toNat ≤ 254
  triSilent : s.apu.triEnabled = false → s.apu.triLength = 0x00#8

/-- The character memory equals `CHR` when the cartridge has character ROM (10_state.md R43). -/
def ChrRomIntact (s : State) : Prop := ∀ rom, s.cart.chr = some rom → s.ppu.chr = rom

/-- The palette cells 0x10, 0x14, 0x18, 0x1C are never addressed and stay zero (10_state.md R43). -/
def PaletteAliasesUnused (s : State) : Prop := ∀ i ∈ [0x10, 0x14, 0x18, 0x1C], s.ppu.palette.read i = 0x00#8

/-- The invariant of the machine between steps. -/
structure Inv (s : State) : Prop where
  config : s.cfg.wf = true
  memories : MemoriesWf s
  layers : LayersWf s
  counters : CountersInRange s
  apu : ApuWf s
  chrRom : ChrRomIntact s
  palette : PaletteAliasesUnused s
  noExtra : s.extra = 0

/-- The timing counters agree with the executed cycles: three dots and one APU cycle for every CPU cycle since RESET
(48_sync_dma_joypad.md R404). -/
structure ClocksAgree (s : State) : Prop where
  halfFrame : 0 < s.cfg.apuHalfFrame
  counters : CountersInRange s
  ppu : 3 * s.totalCycles % (341 * 262) = 341 * s.ppu.line + s.ppu.dot
  apu : s.totalCycles % s.cfg.apuHalfFrame = s.apu.acc

/-- The bytes at `PC` hold an instruction: no illegal opcode is met by the next step (30_encoding.md R150). -/
def CanStep (s : State) : Prop := (fetchInstr (beginStep s)).instr ≠ none

/-- The states a run can reach: RESET's for some parameters and cartridge, and then any mix of steps, changes of the
inputs and RESETs (00_scope.md R18; 70_reset_and_hazards.md R470). -/
inductive Reachable : State → Prop
  | powerOn (cfg : Config) (cart : Cartridge) : cfg.wf = true → cart.wf = true → Reachable (State.powerOn cfg cart)
  | step (s t : State) : Reachable s → step s = .next t → Reachable t
  | inputs (s : State) (irq : Bool) (buttons : Byte) : Reachable s → Reachable (s.withInputs irq buttons)
  | reset (s : State) : Reachable s → Reachable s.hostReset

/-- A run is safe as long as it meets no fault: `n` steps from `s` all answer a next state. -/
def SafeFor : Nat → State → Prop
  | 0, _ => True
  | n + 1, s => ∃ t, step s = .next t ∧ SafeFor n t

end Sys2Proof.Machine
end

