-- ==== Sys2Proof/Certificates/Slice0/Obligations.lean ====
section
/-! DEFINITION. The statements for the provers, from the numbered rules of spec/. The helpers before them only name
what several statements use. -/

open Sys2Proof Sys2Proof.Machine

namespace Sys2Proof

/-- The illegal opcode values, row by row (30_encoding.md R151). -/
def illegalOpcodeValues : List Nat :=
  [0x02, 0x03, 0x04, 0x07, 0x0B, 0x0C, 0x0F] ++
  [0x12, 0x13, 0x14, 0x17, 0x1A, 0x1B, 0x1C, 0x1F] ++
  [0x22, 0x23, 0x27, 0x2B, 0x2F] ++
  [0x32, 0x33, 0x34, 0x37, 0x3A, 0x3B, 0x3C, 0x3F] ++
  [0x42, 0x43, 0x44, 0x47, 0x4B, 0x4F] ++
  [0x52, 0x53, 0x54, 0x57, 0x5A, 0x5B, 0x5C, 0x5F] ++
  [0x62, 0x63, 0x64, 0x67, 0x6B, 0x6F] ++
  [0x72, 0x73, 0x74, 0x77, 0x7A, 0x7B, 0x7C, 0x7F] ++
  [0x80, 0x82, 0x83, 0x87, 0x89, 0x8B, 0x8F] ++
  [0x92, 0x93, 0x97, 0x9B, 0x9C, 0x9E, 0x9F] ++
  [0xA3, 0xA7, 0xAB, 0xAF] ++
  [0xB2, 0xB3, 0xB7, 0xBB, 0xBF] ++
  [0xC2, 0xC3, 0xC7, 0xCB, 0xCF] ++
  [0xD2, 0xD3, 0xD4, 0xD7, 0xDA, 0xDB, 0xDC, 0xDF] ++
  [0xE2, 0xE3, 0xE7, 0xEB, 0xEF] ++
  [0xF2, 0xF3, 0xF4, 0xF7, 0xFA, 0xFB, 0xFC, 0xFF]

namespace Machine

/-- The additional cycles of an instruction: one for a page crossing of a read instruction, the penalty for an OAM DMA
that a store to 0x4014 triggers (70_reset_and_hazards.md R491). -/
def additionalCycles (i : Instr) (s : State) : Nat :=
  match i.operand with
  | .mem f =>
    if i.op ∈ readOps then crossingCost f s
    else if i.op ∈ storeOps ++ modifyOps ∧ (resolve f s).ea = 0x4014#16 then s.cfg.dmaPenalty
    else 0
  | _ => 0

/-- One of the four shifts and rotates: the result as a number, from the byte and the old carry, and the new carry. -/
def ShiftRule (o : Op) (result : Byte → Bool → Nat) (carry : Byte → Bool) : Prop :=
  ∀ (i : Instr) (s : State), i.op = o →
    (i.operand = .acc → ∃ r : Byte, r.toNat = result s.a s.p.c ∧
      exec i s = .next { s with a := r, p := { s.p with c := carry s.a, z := r == 0x00#8, n := r.getLsbD 7 } }) ∧
    (∀ f, i.operand = .mem f → ∃ r : Byte,
      let ea := (resolve f s).ea
      let m := memRead ea s
      r.toNat = result m.1 s.p.c ∧
      exec i s = .next { memWrite ea r m.2 with
        p := { s.p with c := carry m.1, z := r == 0x00#8, n := r.getLsbD 7 } })

/-- The instructions that touch only registers and flags. -/
def RegisterOnly (i : Instr) : Prop :=
  i.op ∈ [.tax, .tay, .txa, .tya, .tsx, .txs, .inx, .iny, .dex, .dey, .clc, .sec, .cli, .sei, .cld, .sed, .clv,
    .nop, .bpl, .bmi, .bvc, .bvs, .bcc, .bcs, .bne, .beq] ∨ i.operand = .acc ∨ i.op = .jmp ∧ i.mode = .abs

/-- How many bytes an instruction pushes; a gated `BRK` pushes none. -/
def pushedBytes (i : Instr) (s : State) : Nat :=
  match i.op with
  | .pha => 1
  | .php => 1
  | .jsr => 2
  | .brk => if s.cfg.brkGated && s.p.i then 0 else 3
  | _ => 0

/-- The work RAM after three pushes, the first at the stack pointer `sp` (10_state.md R27). -/
def pushedThree (m : Memory) (sp b1 b2 b3 : Byte) : Memory :=
  ((m.write (0x0100 + sp.toNat) b1).write (0x0100 + (sp - 1#8).toNat) b2).write (0x0100 + (sp - 2#8).toNat) b3

/-- The physical nametable that a logical table is kept in (20_memory.md R93). -/
def physicalTable (mir : Mirroring) (a : Nat) : Nat :=
  let t := (a - 0x2000) % 0x1000 / 0x400
  match mir with
  | .horizontal => t / 2
  | .vertical => t % 2

/-- The palette entry of an address: the backdrop entries of the sprite palettes are those of the background
palettes (20_memory.md R95). -/
def paletteEntry (a : Nat) : Nat := if a % 4 = 0 then a % 16 else a % 32

/-- The 2-bit pixel at column `fx`, row `fy` of tile `t` of the pattern table at `base`: plane 0 gives its low bit,
plane 1 its high bit, and bit 7 of a plane byte is the leftmost pixel (46_ppu_rendering_timing.md R331). -/
def patternPixel (cart : Cartridge) (u : Ppu) (base t fx fy : Nat) : Nat :=
  let lo := (ppuRead cart u (base + 16 * t + fy)).toNat
  let hi := (ppuRead cart u (base + 16 * t + 8 + fy)).toNat
  lo / 2 ^ (7 - fx) % 2 + 2 * (hi / 2 ^ (7 - fx) % 2)

/-- The pixel that a sprite with its top row at `l` puts in row `y`, column `z` of the layer; `none` outside its 8 by
8 tile and where it is transparent (46_ppu_rendering_timing.md R341). -/
def spritePixelAt (cart : Cartridge) (u : Ppu) (l : Nat) (t attr x : Byte) (y z : Nat) : Option SpritePixel :=
  let fx := if attr.getLsbD 6 then 7 - (z - x.toNat) else z - x.toNat
  let fy := if attr.getLsbD 7 then 7 - (y - l) else y - l
  let px := patternPixel cart u (if u.ctrl1.getLsbD 3 then 0x1000 else 0x0000) t.toNat fx fy
  if l ≤ y ∧ y < l + 8 ∧ x.toNat ≤ z ∧ z < x.toNat + 8 ∧ px ≠ 0 then
    some { colour := (ppuRead cart u (0x3F10 + 4 * (attr.toNat % 4) + px)).setWidth 6, behind := attr.getLsbD 5 }
  else none

/-- The joypad port after `n` reads while the buttons are `input`. -/
def padAfter (input : Byte) : Nat → Pad → Pad
  | 0, u => u
  | n + 1, u => (padRead input (padAfter input n u)).2

/-- The position of the raster within the frame, in dots (46_ppu_rendering_timing.md R321). -/
def framePosition (s : State) : Nat := 341 * s.ppu.line + s.ppu.dot

end Machine

end Sys2Proof

/-- Decoding an encoded instruction gives it back. For every instruction, with every operand at every value, and
for any bytes that follow: decoding its encoding gives that instruction and leaves the bytes that follow. So no
bit of an operand is dropped and no two instructions share an encoding. (30_encoding.md section 1 (R120, R121);
30_encoding.md section 4 (R141)) -/
def Obligations.DecodeOfEncode : Prop :=
  ∀ (i : Instr) (rest : List Byte), decode (encode i ++ rest) = .ok i rest

/-- What decodes to an instruction begins with its encoding. Whenever a list of bytes decodes to an instruction
and a rest, the list is that instruction's encoding followed by the rest. So each list of bytes has one meaning.
(30_encoding.md section 1 (R120, R121); 30_encoding.md section 4 (R141)) -/
def Obligations.EncodeOfDecode : Prop :=
  ∀ (bytes rest : List Byte) (i : Instr), decode bytes = .ok i rest → bytes = encode i ++ rest

/-- The decoder rejects exactly the 105 listed opcode values, whatever follows them. For every opcode byte and
any bytes after it: decoding answers the illegal opcode, by its value, exactly when the value is one of the 105
that the list of illegal opcodes names. With two bytes after it every other opcode decodes to an instruction.
That an illegal opcode has no meaning is the spec's decision D3 (log 10). (30_encoding.md section 5 (R150,
R151)) -/
def Obligations.IllegalOpcodesAreTheListed : Prop :=
  illegalOpcodeValues.length = 105 ∧
  ∀ (op b1 b2 : Byte) (rest : List Byte),
    (decode (op :: rest) = .illegalOpcode op ↔ op.toNat ∈ illegalOpcodeValues) ∧
    (op.toNat ∉ illegalOpcodeValues → ∃ i r, decode (op :: b1 :: b2 :: rest) = .ok i r)

/-- Each legal pair of operation and operand is one instruction, of the length its mode gives. Every instruction
is well formed; every well-formed pair (operation, operand) is the form of exactly one instruction; an encoding
has one byte and the operand bytes of the mode, one to three in all, and begins with the opcode, from which
alone the fetch takes the same number of operand bytes. (30_encoding.md section 1 (R120, R122, R124);
30_encoding.md section 4 (R142)) -/
def Obligations.LegalFormsAndLengths : Prop :=
  (∀ i : Instr, i.wellFormed = true ∧ (encode i).length = i.length ∧ i.length = 1 + i.mode.operandBytes ∧
    i.length ≤ 3 ∧ (encode i).head? = some i.opcode ∧ operandCount i.opcode = i.mode.operandBytes) ∧
  ∀ f : Form, f.wellFormed = true → ∃ i : Instr, i.form = f ∧ ∀ j : Instr, j.form = f → j = i

/-- Sample words of every family decode to the instructions they stand for. A sanity statement: bytes written
out from the opcode map, one or more for each family, decode to the instruction the map names, with the low
operand byte first. (30_encoding.md section 4 (R141, R142); 30_encoding.md section 1 (R121)) -/
def Obligations.SampleWordsDecode : Prop :=
  decode [0xA9#8, 0x42#8] = .ok (.ldaImm 0x42#8) [] ∧
  decode [0x8D#8, 0x00#8, 0x02#8] = .ok (.staAbs 0x0200#16) [] ∧
  decode [0xAA#8] = .ok .tax [] ∧
  decode [0x71#8, 0x20#8] = .ok (.adcIzy 0x20#8) [] ∧
  decode [0x2C#8, 0x02#8, 0x20#8] = .ok (.bitAbs 0x2002#16) [] ∧
  decode [0xFE#8, 0x34#8, 0x12#8] = .ok (.incAbx 0x1234#16) [] ∧
  decode [0x26#8, 0x10#8] = .ok (.rolZp 0x10#8) [] ∧
  decode [0x6C#8, 0xFF#8, 0x02#8] = .ok (.jmpInd 0x02FF#16) [] ∧
  decode [0x20#8, 0x00#8, 0x90#8] = .ok (.jsr 0x9000#16) [] ∧
  decode [0xD0#8, 0xF9#8] = .ok (.bne 0xF9#8) [] ∧
  decode [0x08#8] = .ok .php [] ∧
  decode [0x78#8] = .ok .sei [] ∧
  decode [0xEA#8] = .ok .nop [] ∧
  decode [0x00#8] = .ok .brk [] ∧
  decode [0x40#8] = .ok .rti []

/-- A step runs the instruction whose bytes it fetches. When the bytes fetched at the program counter, after the
interrupt poll that begins the step, are the encoding of an instruction, the step is exec of that instruction at
the state after the fetch, its program counter past the instruction, followed by the end of the step (cycle
count, PPU time, APU time). That exec runs after all operand bytes, the immediate included, were fetched is the
model's inference (log 8). (30_encoding.md section 2 (R126); 48_sync_dma_joypad.md section 1 (R400)) -/
def Obligations.StepRunsTheDecodedInstruction : Prop :=
  ∀ (s : State) (i : Instr),
    let f := fetchBytes i.length (beginStep s)
    f.1 = encode i →
    f.2.pc = (beginStep s).pc + BitVec.ofNat 16 i.length ∧
    step s = match exec i f.2 with
      | .next t => .next (endStep i.opcode t)
      | .fault r => .fault r
      | .refused r => .refused r

/-- A fetch is one bus read at PC for each byte; from RAM or ROM it moves only the program counter. Fetching no
bytes changes nothing. The first byte fetched, from any address, is one bus read at PC with whatever effect that
read has; then PC is one further, modulo 65536, and the rest are fetched from there. So a fetch from 0x2002
clears vblank. When the addresses from PC on are all work RAM or program ROM, fetching n bytes gives those bytes
in ascending address order, wrapping at 0xFFFF, and changes nothing but PC, which advances by n modulo 65536.
That PC wraps from 0xFFFF to 0x0000 is the spec's decision D14 (log 34). (30_encoding.md section 2 (R126);
10_state.md section 2 (R24); 20_memory.md section 4 (R110)) -/
def Obligations.FetchFromStorage : Prop :=
  (∀ s : State, fetchBytes 0 s = ([], s)) ∧
  (∀ (n : Nat) (s : State),
    let m := memRead s.pc s
    let r := fetchBytes n { m.2 with pc := s.pc + 1#16 }
    fetchBytes (n + 1) s = (m.1 :: r.1, r.2)) ∧
  (∀ s : State, s.pc = 0x2002#16 → (fetchBytes 1 s).2.ppu.vblank = false) ∧
  ∀ (n : Nat) (s : State), (∀ k < n, isStorage (s.pc + BitVec.ofNat 16 k) = true) →
    fetchBytes n s =
      ((List.range n).map fun k => s.peek (s.pc + BitVec.ofNat 16 k), { s with pc := s.pc + BitVec.ofNat 16 n })

/-- The end of a step hands its cycle count to the PPU and the APU. With c the base cycles of the opcode and the
additional cycles of the step, the end of a step adds c to the executed cycles, clears the additional cycles,
runs the PPU for c cycles (three dots each) and then the APU for c cycles. PPU before APU is the spec's decision
D38 (log 17); that the additional cycles are cleared here too is the model's choice (log 7).
(48_sync_dma_joypad.md section 1 (R400, R402); 70_reset_and_hazards.md section 4 (R491)) -/
def Obligations.EndOfStepAdvancesTime : Prop :=
  ∀ (op : Byte) (s : State),
    let c := baseCycles s.cfg op + s.extra
    let u := ppuRun c { s with totalCycles := s.totalCycles + c, extra := 0 }
    endStep op s = { u with apu := apuRun s.cfg.apuHalfFrame c s.apu } ∧
    u.apu = s.apu ∧ u.totalCycles = s.totalCycles + c ∧ u.extra = 0 ∧
    u.ppu.dot = (s.ppu.dot + 3 * c) % 341

/-- A step costs its base cycles, one for a page crossing of a read, and the penalty of a DMA. A step that
answers a next state ran one decoded instruction, and the executed cycles grew by the base count of its opcode
and its additional cycles: one if it is a read instruction whose indexed address crossed a page and the crossing
is charged, the DMA penalty if it stored to 0x4014, else none. Nothing else costs: no branch, no interrupt
entry. After the step no additional cycles are left over. That branches and entries cost nothing is the spec's
decisions D16 and D4 (logs 15 and 14), the fixed DMA penalty its decision D36 (log 27); that none are left over
is the model's choice (log 7). (70_reset_and_hazards.md section 4 (R491); 30_encoding.md section 3 (R140);
48_sync_dma_joypad.md section 2 (R412)) -/
def Obligations.CyclesOfAStep : Prop :=
  ∀ s t : State, step s = .next t →
    let f := fetchInstr (beginStep s)
    ∃ i : Instr, f.instr = some i ∧
      t.totalCycles = s.totalCycles + baseCycles s.cfg i.opcode + additionalCycles i f.after ∧ t.extra = 0

/-- The machine stops only on an illegal opcode, and then always. No step is ever refused. A step ends in a
fault exactly when the byte at the program counter, after the interrupt poll, is one of the 105 illegal opcode
values, and the fault names that byte and its address; on every other byte it answers a next state. That the
machine stops only on an illegal opcode is R465; that the 105 values have no meaning and what the fault carries
is the spec's decision D3 (R150; log 10). (60_exceptions.md section 4 (R465); 30_encoding.md section 5 (R150,
R151)) -/
def Obligations.StepStopsOnlyOnIllegalOpcodes : Prop :=
  ∀ s : State,
    let s0 := beginStep s
    (∀ r, step s ≠ .refused r) ∧
    (∀ fault, step s = .fault fault ↔
      (s0.peek s0.pc).toNat ∈ illegalOpcodeValues ∧ fault = .illegalOpcode (s0.peek s0.pc) s0.pc) ∧
    ((s0.peek s0.pc).toNat ∉ illegalOpcodeValues → ∃ t, step s = .next t)

/-- No step changes the cartridge, the parameters or the inputs. The cartridge, the named parameters and the two
inputs are the same after every step as before it: they are configuration and inputs, which no rule writes. That
the model keeps them in the state is its own choice (logs 1 and 5). (00_scope.md section 6 (R16, R17, R18)) -/
def Obligations.NoInstructionWritesTheConfiguration : Prop :=
  ∀ s t : State, step s = .next t →
    t.cart = s.cart ∧ t.cfg = s.cfg ∧ t.irqLine = s.irqLine ∧ t.padInput = s.padInput

/-- No instruction moves device time. An instruction leaves the dot and line counters, both raster layers, the
two sprite flags, the APU cycle accumulator, the executed cycles, the NMI request and frame ready as they were,
and can clear vblank but not set it: all of them move only at the end of the step. (20_memory.md section 4
(R101); 48_sync_dma_joypad.md section 1 (R401)) -/
def Obligations.DeviceTimeStandsStillInAStep : Prop :=
  ∀ (i : Instr) (s t : State), exec i s = .next t →
    t.ppu.dot = s.ppu.dot ∧ t.ppu.line = s.ppu.line ∧ t.ppu.bgLayer = s.ppu.bgLayer ∧
    t.ppu.spriteLayer = s.ppu.spriteLayer ∧ t.ppu.sprite0Hit = s.ppu.sprite0Hit ∧
    t.ppu.spriteOverflow = s.ppu.spriteOverflow ∧ (t.ppu.vblank = true → s.ppu.vblank = true) ∧
    t.apu.acc = s.apu.acc ∧ t.totalCycles = s.totalCycles ∧ t.nmiPending = s.nmiPending ∧
    t.frameReady = s.frameReady

/-- LDA, LDX and LDY: result, flags, encodings. For every encoding of the three loads: the register takes the
byte the operand reads as, Z says whether it is zero, N is its bit 7; besides, only what the one bus read
changes and the page-crossing cycle. The modes, opcodes, lengths and base cycles are the listed ones. (R160;
R161; R162) -/
def Obligations.LoadInstructions : Prop :=
  manualRows .lda =
    [⟨.izx, 0xA1#8, 2, 6⟩, ⟨.zp, 0xA5#8, 2, 3⟩, ⟨.imm, 0xA9#8, 2, 2⟩, ⟨.abs, 0xAD#8, 3, 4⟩,
     ⟨.izy, 0xB1#8, 2, 5⟩, ⟨.zpx, 0xB5#8, 2, 4⟩, ⟨.aby, 0xB9#8, 3, 4⟩, ⟨.abx, 0xBD#8, 3, 4⟩] ∧
  manualRows .ldx =
    [⟨.imm, 0xA2#8, 2, 2⟩, ⟨.zp, 0xA6#8, 2, 3⟩, ⟨.abs, 0xAE#8, 3, 4⟩, ⟨.zpy, 0xB6#8, 2, 4⟩,
     ⟨.aby, 0xBE#8, 3, 4⟩] ∧
  manualRows .ldy =
    [⟨.imm, 0xA0#8, 2, 2⟩, ⟨.zp, 0xA4#8, 2, 3⟩, ⟨.abs, 0xAC#8, 3, 4⟩, ⟨.zpx, 0xB4#8, 2, 4⟩,
     ⟨.abx, 0xBC#8, 3, 4⟩] ∧
  ∀ (i : Instr) (s : State),
    let m := operandByte i.operand s
    let p := { s.p with z := m.1 == 0x00#8, n := m.1.getLsbD 7 }
    (i.op = .lda → exec i s = .next { m.2 with a := m.1, p := p }) ∧
    (i.op = .ldx → exec i s = .next { m.2 with x := m.1, p := p }) ∧
    (i.op = .ldy → exec i s = .next { m.2 with y := m.1, p := p })

/-- STA, STX and STY: one bus write, no flags, encodings. For every encoding of the three stores: the next state
is that of one bus write of the register to the effective address, with no read of it, no page-crossing cycle
and no flag. Such a write puts the byte in work RAM, changes nothing in the ROM window or from 0x4020 to 0x7FFF,
and at 0x4014 runs a whole OAM DMA, which adds its penalty. The modes, opcodes, lengths and base cycles are the
listed ones. (R163; R164; R165) -/
def Obligations.StoreInstructions : Prop :=
  manualRows .sta =
    [⟨.izx, 0x81#8, 2, 6⟩, ⟨.zp, 0x85#8, 2, 3⟩, ⟨.abs, 0x8D#8, 3, 4⟩, ⟨.izy, 0x91#8, 2, 6⟩,
     ⟨.zpx, 0x95#8, 2, 4⟩, ⟨.aby, 0x99#8, 3, 5⟩, ⟨.abx, 0x9D#8, 3, 5⟩] ∧
  manualRows .stx =
    [⟨.zp, 0x86#8, 2, 3⟩, ⟨.abs, 0x8E#8, 3, 4⟩, ⟨.zpy, 0x96#8, 2, 4⟩] ∧
  manualRows .sty =
    [⟨.zp, 0x84#8, 2, 3⟩, ⟨.abs, 0x8C#8, 3, 4⟩, ⟨.zpx, 0x94#8, 2, 4⟩] ∧
  (∀ (i : Instr) (s : State) (f : AddrForm), i.operand = .mem f →
    (i.op = .sta → exec i s = .next (memWrite (resolve f s).ea s.a s)) ∧
    (i.op = .stx → exec i s = .next (memWrite (resolve f s).ea s.x s)) ∧
    (i.op = .sty → exec i s = .next (memWrite (resolve f s).ea s.y s))) ∧
  (∀ i : Instr, i.op ∈ storeOps → ∃ f, i.operand = .mem f) ∧
  ∀ (a : Word) (v : Byte) (s : State),
    (inRam a = true → memWrite a v s = { s with ram := s.ram.write (a.toNat % 0x0800) v }) ∧
    (0x4020 ≤ a.toNat → memWrite a v s = s) ∧
    memWrite 0x4014#16 v s = oamDma v s ∧ (oamDma v s).extra = s.extra + s.cfg.dmaPenalty

/-- The six register transfers: result, flags, encodings. TAX, TAY, TXA, TYA and TSX copy a register and set Z
and N from the value; TXS copies X to the stack pointer and leaves the flags alone; nothing else changes. The
opcodes, lengths and base cycles are the listed ones. (R166; R167; R168; R169; R170; R171) -/
def Obligations.TransferInstructions : Prop :=
  manualRows .tax =
    [⟨.imp, 0xAA#8, 1, 2⟩] ∧
  manualRows .tay =
    [⟨.imp, 0xA8#8, 1, 2⟩] ∧
  manualRows .txa =
    [⟨.imp, 0x8A#8, 1, 2⟩] ∧
  manualRows .tya =
    [⟨.imp, 0x98#8, 1, 2⟩] ∧
  manualRows .tsx =
    [⟨.imp, 0xBA#8, 1, 2⟩] ∧
  manualRows .txs =
    [⟨.imp, 0x9A#8, 1, 2⟩] ∧
  ∀ s : State,
    exec .tax s = .next { s with x := s.a, p := { s.p with z := s.a == 0x00#8, n := s.a.getLsbD 7 } } ∧
    exec .tay s = .next { s with y := s.a, p := { s.p with z := s.a == 0x00#8, n := s.a.getLsbD 7 } } ∧
    exec .txa s = .next { s with a := s.x, p := { s.p with z := s.x == 0x00#8, n := s.x.getLsbD 7 } } ∧
    exec .tya s = .next { s with a := s.y, p := { s.p with z := s.y == 0x00#8, n := s.y.getLsbD 7 } } ∧
    exec .tsx s = .next { s with x := s.sp, p := { s.p with z := s.sp == 0x00#8, n := s.sp.getLsbD 7 } } ∧
    exec .txs s = .next { s with sp := s.x }

/-- ADC and SBC: result, carry, overflow as exact arithmetic, encodings. For every encoding: ADC leaves A + M +
C modulo 256, C set when the sum exceeds 255, V set when the operands' signs agree and differ from the result's,
which is when the signed sum is outside -128 to 127. SBC leaves A - M - (1 - C) modulo 256, C set when that
difference is not negative, V set when the signed difference is outside -128 to 127. Z and N follow the result;
no other flag matters or changes, the decimal flag included. The modes, opcodes, lengths and base cycles are the
listed ones. (R181; R182) -/
def Obligations.AddAndSubtract : Prop :=
  manualRows .adc =
    [⟨.izx, 0x61#8, 2, 6⟩, ⟨.zp, 0x65#8, 2, 3⟩, ⟨.imm, 0x69#8, 2, 2⟩, ⟨.abs, 0x6D#8, 3, 4⟩,
     ⟨.izy, 0x71#8, 2, 5⟩, ⟨.zpx, 0x75#8, 2, 4⟩, ⟨.aby, 0x79#8, 3, 4⟩, ⟨.abx, 0x7D#8, 3, 4⟩] ∧
  manualRows .sbc =
    [⟨.izx, 0xE1#8, 2, 6⟩, ⟨.zp, 0xE5#8, 2, 3⟩, ⟨.imm, 0xE9#8, 2, 2⟩, ⟨.abs, 0xED#8, 3, 4⟩,
     ⟨.izy, 0xF1#8, 2, 5⟩, ⟨.zpx, 0xF5#8, 2, 4⟩, ⟨.aby, 0xF9#8, 3, 4⟩, ⟨.abx, 0xFD#8, 3, 4⟩] ∧
  ∀ (i : Instr) (s : State),
    let m := operandByte i.operand s
    let c := bit01 s.p.c
    (i.op = .adc → ∃ (r : Byte) (carry ovf : Bool),
      exec i s = .next { m.2 with
        a := r, p := { s.p with c := carry, v := ovf, z := r == 0x00#8, n := r.getLsbD 7 } } ∧
      r.toNat = (s.a.toNat + m.1.toNat + c) % 256 ∧ (carry = true ↔ 255 < s.a.toNat + m.1.toNat + c) ∧
      (ovf = true ↔ s.a.getLsbD 7 = m.1.getLsbD 7 ∧ r.getLsbD 7 ≠ s.a.getLsbD 7) ∧
      (ovf = true ↔ s.a.toInt + m.1.toInt + c < -128 ∨ 127 < s.a.toInt + m.1.toInt + c)) ∧
    (i.op = .sbc → ∃ (r : Byte) (carry ovf : Bool),
      exec i s = .next { m.2 with
        a := r, p := { s.p with c := carry, v := ovf, z := r == 0x00#8, n := r.getLsbD 7 } } ∧
      r.toNat = (s.a.toNat + (255 - m.1.toNat) + c) % 256 ∧
      (carry = true ↔ 0 ≤ (s.a.toNat : Int) - m.1.toNat - (1 - (c : Int))) ∧
      (ovf = true ↔ s.a.getLsbD 7 ≠ m.1.getLsbD 7 ∧ r.getLsbD 7 ≠ s.a.getLsbD 7) ∧
      (ovf = true ↔ s.a.toInt - m.1.toInt - (1 - (c : Int)) < -128 ∨
        127 < s.a.toInt - m.1.toInt - (1 - (c : Int))))

/-- AND, ORA and EOR: result, flags, encodings. For every encoding: A takes the bitwise and, or, exclusive or of
A and the operand byte; Z and N follow the result; C and V are untouched. The modes, opcodes, lengths and base
cycles are the listed ones. (R184; R185; R186) -/
def Obligations.LogicInstructions : Prop :=
  manualRows .and =
    [⟨.izx, 0x21#8, 2, 6⟩, ⟨.zp, 0x25#8, 2, 3⟩, ⟨.imm, 0x29#8, 2, 2⟩, ⟨.abs, 0x2D#8, 3, 4⟩,
     ⟨.izy, 0x31#8, 2, 5⟩, ⟨.zpx, 0x35#8, 2, 4⟩, ⟨.aby, 0x39#8, 3, 4⟩, ⟨.abx, 0x3D#8, 3, 4⟩] ∧
  manualRows .ora =
    [⟨.izx, 0x01#8, 2, 6⟩, ⟨.zp, 0x05#8, 2, 3⟩, ⟨.imm, 0x09#8, 2, 2⟩, ⟨.abs, 0x0D#8, 3, 4⟩,
     ⟨.izy, 0x11#8, 2, 5⟩, ⟨.zpx, 0x15#8, 2, 4⟩, ⟨.aby, 0x19#8, 3, 4⟩, ⟨.abx, 0x1D#8, 3, 4⟩] ∧
  manualRows .eor =
    [⟨.izx, 0x41#8, 2, 6⟩, ⟨.zp, 0x45#8, 2, 3⟩, ⟨.imm, 0x49#8, 2, 2⟩, ⟨.abs, 0x4D#8, 3, 4⟩,
     ⟨.izy, 0x51#8, 2, 5⟩, ⟨.zpx, 0x55#8, 2, 4⟩, ⟨.aby, 0x59#8, 3, 4⟩, ⟨.abx, 0x5D#8, 3, 4⟩] ∧
  ∀ (i : Instr) (s : State),
    let m := operandByte i.operand s
    let done (r : Byte) : Host.Outcome State Fault Refusal :=
      .next { m.2 with a := r, p := { s.p with z := r == 0x00#8, n := r.getLsbD 7 } }
    (i.op = .and → exec i s = done (s.a &&& m.1)) ∧
    (i.op = .ora → exec i s = done (s.a ||| m.1)) ∧
    (i.op = .eor → exec i s = done (s.a ^^^ m.1))

/-- CMP, CPX, CPY and BIT: flags, no register written, encodings. For every encoding: a compare sets C when the
register is not below the operand (unsigned), Z when they are equal, N to bit 7 of the difference modulo 256;
BIT sets Z when A and the operand share no bit, N and V to bits 7 and 6 of the operand. No register changes. The
modes, opcodes, lengths and base cycles are the listed ones. That the carry of CMP is the unsigned comparison is
the spec's decision D1. (41_arithmetic_logic.md section 4) -/
def Obligations.CompareAndBitTest : Prop :=
  manualRows .cmp =
    [⟨.izx, 0xC1#8, 2, 6⟩, ⟨.zp, 0xC5#8, 2, 3⟩, ⟨.imm, 0xC9#8, 2, 2⟩, ⟨.abs, 0xCD#8, 3, 4⟩,
     ⟨.izy, 0xD1#8, 2, 5⟩, ⟨.zpx, 0xD5#8, 2, 4⟩, ⟨.aby, 0xD9#8, 3, 4⟩, ⟨.abx, 0xDD#8, 3, 4⟩] ∧
  manualRows .cpx =
    [⟨.imm, 0xE0#8, 2, 2⟩, ⟨.zp, 0xE4#8, 2, 3⟩, ⟨.abs, 0xEC#8, 3, 4⟩] ∧
  manualRows .cpy =
    [⟨.imm, 0xC0#8, 2, 2⟩, ⟨.zp, 0xC4#8, 2, 3⟩, ⟨.abs, 0xCC#8, 3, 4⟩] ∧
  manualRows .bit =
    [⟨.zp, 0x24#8, 2, 3⟩, ⟨.abs, 0x2C#8, 3, 4⟩] ∧
  ∀ (i : Instr) (s : State),
    let m := operandByte i.operand s
    let compare (r : Byte) : Host.Outcome State Fault Refusal :=
      .next { m.2 with
        p := { s.p with c := decide (m.1.toNat ≤ r.toNat), z := r == m.1, n := (r - m.1).getLsbD 7 } }
    (i.op = .cmp → exec i s = compare s.a) ∧
    (i.op = .cpx → exec i s = compare s.x) ∧
    (i.op = .cpy → exec i s = compare s.y) ∧
    (i.op = .bit → exec i s = .next { m.2 with
      p := { s.p with z := (s.a &&& m.1) == 0x00#8, n := m.1.getLsbD 7, v := m.1.getLsbD 6 } })

/-- INC, DEC, INX, INY, DEX and DEY: result, flags, encodings. INC and DEC read the byte at the effective
address once, write it back once, one more or less modulo 256, and set Z and N from the value written, even
where the write is lost; no page-crossing cycle. The register forms do the same to X and Y. C and V are
untouched. The modes, opcodes, lengths and base cycles are the listed ones. (R191; R192; R193; R194; R195; R196) -/
def Obligations.IncrementAndDecrement : Prop :=
  manualRows .inc =
    [⟨.zp, 0xE6#8, 2, 5⟩, ⟨.abs, 0xEE#8, 3, 6⟩, ⟨.zpx, 0xF6#8, 2, 6⟩, ⟨.abx, 0xFE#8, 3, 7⟩] ∧
  manualRows .dec =
    [⟨.zp, 0xC6#8, 2, 5⟩, ⟨.abs, 0xCE#8, 3, 6⟩, ⟨.zpx, 0xD6#8, 2, 6⟩, ⟨.abx, 0xDE#8, 3, 7⟩] ∧
  manualRows .inx =
    [⟨.imp, 0xE8#8, 1, 2⟩] ∧
  manualRows .iny =
    [⟨.imp, 0xC8#8, 1, 2⟩] ∧
  manualRows .dex =
    [⟨.imp, 0xCA#8, 1, 2⟩] ∧
  manualRows .dey =
    [⟨.imp, 0x88#8, 1, 2⟩] ∧
  (∀ (i : Instr) (s : State) (f : AddrForm), i.operand = .mem f →
    let ea := (resolve f s).ea
    let m := memRead ea s
    let done (v : Byte) : Host.Outcome State Fault Refusal :=
      .next { memWrite ea v m.2 with p := { s.p with z := v == 0x00#8, n := v.getLsbD 7 } }
    (i.op = .inc → exec i s = done (m.1 + 1#8)) ∧ (i.op = .dec → exec i s = done (m.1 - 1#8))) ∧
  (∀ i : Instr, i.op = .inc ∨ i.op = .dec → ∃ f, i.operand = .mem f) ∧
  ∀ s : State,
    let p (v : Byte) : Flags := { s.p with z := v == 0x00#8, n := v.getLsbD 7 }
    exec .inx s = .next { s with x := s.x + 1#8, p := p (s.x + 1#8) } ∧
    exec .iny s = .next { s with y := s.y + 1#8, p := p (s.y + 1#8) } ∧
    exec .dex s = .next { s with x := s.x - 1#8, p := p (s.x - 1#8) } ∧
    exec .dey s = .next { s with y := s.y - 1#8, p := p (s.y - 1#8) }

/-- ASL, LSR, ROL and ROR: result, carry, flags, encodings. On the accumulator, or with one read then one write
of the effective address: ASL gives twice the byte modulo 256, LSR half of it, ROL twice the byte modulo 256
with the old carry in bit 0, ROR half of it with the old carry in bit 7; C takes the bit shifted out, Z and N
follow the result, V and the others are untouched; no page-crossing cycle. The modes, opcodes, lengths and base
cycles are the listed ones. (R210; R211; R212; R213; R214) -/
def Obligations.ShiftsAndRotates : Prop :=
  manualRows .asl =
    [⟨.zp, 0x06#8, 2, 5⟩, ⟨.acc, 0x0A#8, 1, 2⟩, ⟨.abs, 0x0E#8, 3, 6⟩, ⟨.zpx, 0x16#8, 2, 6⟩,
     ⟨.abx, 0x1E#8, 3, 7⟩] ∧
  manualRows .lsr =
    [⟨.zp, 0x46#8, 2, 5⟩, ⟨.acc, 0x4A#8, 1, 2⟩, ⟨.abs, 0x4E#8, 3, 6⟩, ⟨.zpx, 0x56#8, 2, 6⟩,
     ⟨.abx, 0x5E#8, 3, 7⟩] ∧
  manualRows .rol =
    [⟨.zp, 0x26#8, 2, 5⟩, ⟨.acc, 0x2A#8, 1, 2⟩, ⟨.abs, 0x2E#8, 3, 6⟩, ⟨.zpx, 0x36#8, 2, 6⟩,
     ⟨.abx, 0x3E#8, 3, 7⟩] ∧
  manualRows .ror =
    [⟨.zp, 0x66#8, 2, 5⟩, ⟨.acc, 0x6A#8, 1, 2⟩, ⟨.abs, 0x6E#8, 3, 6⟩, ⟨.zpx, 0x76#8, 2, 6⟩,
     ⟨.abx, 0x7E#8, 3, 7⟩] ∧
  (∀ i : Instr, i.op ∈ [.asl, .lsr, .rol, .ror] → i.operand = .acc ∨ ∃ f, i.operand = .mem f) ∧
  ShiftRule .asl (fun v _ => 2 * v.toNat % 256) (fun v => v.getLsbD 7) ∧
  ShiftRule .lsr (fun v _ => v.toNat / 2) (fun v => v.getLsbD 0) ∧
  ShiftRule .rol (fun v c => 2 * v.toNat % 256 + bit01 c) (fun v => v.getLsbD 7) ∧
  ShiftRule .ror (fun v c => v.toNat / 2 + 128 * bit01 c) (fun v => v.getLsbD 0)

/-- JMP: the target, absolute and indirect, and its encodings. JMP absolute sets PC to its operand and changes
nothing else. JMP indirect reads its pointer with two bus reads, the second from the same page as the first (so
the pointer at 0x02FF takes its high byte from 0x0200), and sets PC to the word read; with the pointer in RAM or
ROM nothing else changes. The same-page wrap is the spec's decision D13 (log 34). The modes, opcodes, lengths
and base cycles are the listed ones. (43_control_flow.md section 1; 30_encoding.md section 3) -/
def Obligations.JumpInstruction : Prop :=
  manualRows .jmp =
    [⟨.abs, 0x4C#8, 3, 3⟩, ⟨.ind, 0x6C#8, 3, 5⟩] ∧
  (∀ (w : Word) (s : State), exec (.jmpAbs w) s = .next { s with pc := w }) ∧
  (∀ (w : Word) (s : State),
    let l := memRead w s
    let h := memRead (mkWord (hiByte w) (loByte w + 1#8)) l.2
    exec (.jmpInd w) s = .next { h.2 with pc := mkWord h.1 l.1 }) ∧
  ∀ (w : Word) (s : State), isStorage w = true →
    exec (.jmpInd w) s =
      .next { s with pc := mkWord (s.peek (mkWord (hiByte w) (loByte w + 1#8))) (s.peek w) }

/-- JSR and RTS: return address on the stack, target, and the round trip. JSR pushes the address of its own last
byte, high byte first, lowers SP by two and sets PC to its operand; RTS pulls low and high, adds one and raises
SP by two; neither writes a flag or anything else. RTS at the state JSR leaves returns to the instruction after
the JSR with SP as it was before it, for every SP. That both operand bytes are fetched before the pushes is the
spec's decision D15. The opcodes, lengths and base cycles are the listed ones. (43_control_flow.md section 2;
10_state.md section 2 (R27)) -/
def Obligations.CallAndReturn : Prop :=
  manualRows .jsr =
    [⟨.abs, 0x20#8, 3, 6⟩] ∧
  manualRows .rts =
    [⟨.imp, 0x60#8, 1, 6⟩] ∧
  (∀ (w : Word) (s : State),
    exec (.jsr w) s = .next { s with
      ram := (s.ram.write (0x0100 + s.sp.toNat) (hiByte (s.pc - 1#16))).write (0x0100 + (s.sp - 1#8).toNat)
        (loByte (s.pc - 1#16))
      sp := s.sp - 2#8
      pc := w }) ∧
  (∀ s : State,
    exec .rts s = .next { s with
      pc := mkWord (s.ram.read (0x0100 + (s.sp + 2#8).toNat)) (s.ram.read (0x0100 + (s.sp + 1#8).toNat)) + 1#16
      sp := s.sp + 2#8 }) ∧
  ∀ (w : Word) (s t : State), exec (.jsr w) s = .next t → exec .rts t = .next { t with pc := s.pc, sp := s.sp }

/-- The eight branches: condition, target, no flag, no cycle, encodings. Each branch, when its flag has the
value it tests, sets PC to PC (already past the instruction) plus its offset sign-extended, modulo 65536, and
otherwise leaves PC alone; nothing else changes, no additional cycle included, taken or not. The opcodes,
lengths and base cycles are the listed ones. (R230; R231; R232; R233; R234; R235; R236; R237; R238) -/
def Obligations.BranchInstructions : Prop :=
  manualRows .bpl =
    [⟨.rel, 0x10#8, 2, 2⟩] ∧
  manualRows .bmi =
    [⟨.rel, 0x30#8, 2, 2⟩] ∧
  manualRows .bvc =
    [⟨.rel, 0x50#8, 2, 2⟩] ∧
  manualRows .bvs =
    [⟨.rel, 0x70#8, 2, 2⟩] ∧
  manualRows .bcc =
    [⟨.rel, 0x90#8, 2, 2⟩] ∧
  manualRows .bcs =
    [⟨.rel, 0xB0#8, 2, 2⟩] ∧
  manualRows .bne =
    [⟨.rel, 0xD0#8, 2, 2⟩] ∧
  manualRows .beq =
    [⟨.rel, 0xF0#8, 2, 2⟩] ∧
  (∀ (off : Byte) (pc : Word), (pc + sext16 off).toNat = ((pc.toNat : Int) + off.toInt) % 65536) ∧
  ∀ (off : Byte) (s : State),
    let go (taken : Bool) : Host.Outcome State Fault Refusal :=
      .next (if taken then { s with pc := s.pc + sext16 off } else s)
    exec (.bpl off) s = go (!s.p.n) ∧
    exec (.bmi off) s = go (s.p.n) ∧
    exec (.bvc off) s = go (!s.p.v) ∧
    exec (.bvs off) s = go (s.p.v) ∧
    exec (.bcc off) s = go (!s.p.c) ∧
    exec (.bcs off) s = go (s.p.c) ∧
    exec (.bne off) s = go (!s.p.z) ∧
    exec (.beq off) s = go (s.p.z)

/-- Push and Pull: where they access, how SP wraps, and the round trip. Push writes the byte at 0x0100 + SP, in
work RAM, and takes one from SP modulo 256; Pull adds one to SP modulo 256 and reads the byte at 0x0100 + SP,
with no other effect; pulling after pushing a byte gives the byte and leaves SP as it was, for every byte and
every SP. (R27) -/
def Obligations.StackPrimitives : Prop :=
  (∀ (v : Byte) (s : State),
    push v s = { s with ram := s.ram.write (0x0100 + s.sp.toNat) v, sp := s.sp - 1#8 } ∧
    memWrite (mkWord 0x01#8 s.sp) v s = { s with ram := s.ram.write (0x0100 + s.sp.toNat) v }) ∧
  (∀ s : State,
    pull s = (s.ram.read (0x0100 + (s.sp + 1#8).toNat), { s with sp := s.sp + 1#8 }) ∧
    (pull s).1 = s.peek (mkWord 0x01#8 (s.sp + 1#8))) ∧
  ∀ (v : Byte) (s : State), (pull (push v s)).1 = v ∧ (pull (push v s)).2 = { push v s with sp := s.sp }

/-- The status byte: each flag in its bit, bit 5 always set, and back. The packed byte holds N, V, 1, the given
bit, D, I, Z, C in bits 7 to 0; unpacking ignores bit 5; unpacking a packed byte gives the flags back with B as
the given bit; packing an unpacked byte gives it back with bit 5 set. What unpacking does with bits 5 and 4 is
the spec's decision D8. (10_state.md section 2 (R25, R26)) -/
def Obligations.StatusBytePackAndUnpack : Prop :=
  (∀ (p : Flags) (b : Bool),
    (p.pack b).toNat = 128 * bit01 p.n + 64 * bit01 p.v + 32 + 16 * bit01 b + 8 * bit01 p.d + 4 * bit01 p.i +
      2 * bit01 p.z + bit01 p.c) ∧
  (∀ (p : Flags) (b : Bool), Flags.unpack (p.pack b) = { p with b := b }) ∧
  ∀ v : Byte, (Flags.unpack v).pack (v.getLsbD 4) = v ||| 0x20#8

/-- PHA, PLA, PHP and PLP: the byte moved, SP, flags, encodings. PHA pushes A and PHP the status byte with bits
5 and 4 set, whatever B holds; neither writes a flag. PLA pulls into A and sets Z and N; PLP pulls into the
seven flags. Nothing else changes. PLA after PHA gives A back and SP as it was. Bit 4 of a PHP byte and the
loading of B are the spec's decision D8. The opcodes, lengths and base cycles are the listed ones.
(44_stack_flags_system.md section 1; 10_state.md section 2 (R25, R26, R27)) -/
def Obligations.PushAndPullInstructions : Prop :=
  manualRows .pha =
    [⟨.imp, 0x48#8, 1, 3⟩] ∧
  manualRows .pla =
    [⟨.imp, 0x68#8, 1, 4⟩] ∧
  manualRows .php =
    [⟨.imp, 0x08#8, 1, 3⟩] ∧
  manualRows .plp =
    [⟨.imp, 0x28#8, 1, 4⟩] ∧
  (∀ s : State,
    let pulled := s.ram.read (0x0100 + (s.sp + 1#8).toNat)
    exec .pha s = .next { s with ram := s.ram.write (0x0100 + s.sp.toNat) s.a, sp := s.sp - 1#8 } ∧
    exec .pla s = .next { s with
      a := pulled, sp := s.sp + 1#8, p := { s.p with z := pulled == 0x00#8, n := pulled.getLsbD 7 } } ∧
    exec .php s = .next { s with ram := s.ram.write (0x0100 + s.sp.toNat) (s.p.pack true), sp := s.sp - 1#8 } ∧
    exec .plp s = .next { s with
      sp := s.sp + 1#8
      p :=
        { n := pulled.getLsbD 7, v := pulled.getLsbD 6, b := pulled.getLsbD 4, d := pulled.getLsbD 3,
          i := pulled.getLsbD 2, z := pulled.getLsbD 1, c := pulled.getLsbD 0 } }) ∧
  ∀ s t : State, exec .pha s = .next t → ∃ u, exec .pla t = .next u ∧ u.a = s.a ∧ u.sp = s.sp

/-- CLC, SEC, CLI, SEI, CLD, SED, CLV and NOP: one flag each, or nothing; encodings. Each flag instruction
writes the one flag it names and nothing else; NOP changes nothing. The opcodes, lengths and base cycles are the
listed ones. (R244; R245; R246; R247; R248; R249; R250; R255) -/
def Obligations.FlagInstructionsAndNop : Prop :=
  manualRows .clc =
    [⟨.imp, 0x18#8, 1, 2⟩] ∧
  manualRows .sec =
    [⟨.imp, 0x38#8, 1, 2⟩] ∧
  manualRows .cli =
    [⟨.imp, 0x58#8, 1, 2⟩] ∧
  manualRows .sei =
    [⟨.imp, 0x78#8, 1, 2⟩] ∧
  manualRows .cld =
    [⟨.imp, 0xD8#8, 1, 2⟩] ∧
  manualRows .sed =
    [⟨.imp, 0xF8#8, 1, 2⟩] ∧
  manualRows .clv =
    [⟨.imp, 0xB8#8, 1, 2⟩] ∧
  manualRows .nop =
    [⟨.imp, 0xEA#8, 1, 2⟩] ∧
  ∀ s : State,
    exec .clc s = .next { s with p := { s.p with c := false } } ∧
    exec .sec s = .next { s with p := { s.p with c := true } } ∧
    exec .cli s = .next { s with p := { s.p with i := false } } ∧
    exec .sei s = .next { s with p := { s.p with i := true } } ∧
    exec .cld s = .next { s with p := { s.p with d := false } } ∧
    exec .sed s = .next { s with p := { s.p with d := true } } ∧
    exec .clv s = .next { s with p := { s.p with v := false } } ∧
    exec .nop s = .next s

/-- BRK: gated it is a one-byte no-operation, else it enters its handler; encoding. With gating on and I set,
BRK changes nothing. Otherwise it pushes PC + 1 (its opcode address plus two), high byte first, then the status
byte with bits 5 and 4 set and the old I, lowers SP by three, sets B and I, and loads PC from the vector at
0xFFFE; A, X, Y and the other flags stay. The gating is the spec's choice C2; what a gated BRK does to PC, the
skipped byte and the setting of I are its decisions D10, D9, D6 (log 13). The opcode, length and base cycles are
the listed ones. (44_stack_flags_system.md section 4; 60_exceptions.md section 2) -/
def Obligations.SoftwareInterrupt : Prop :=
  manualRows .brk =
    [⟨.imp, 0x00#8, 1, 7⟩] ∧
  ∀ s : State,
    (s.cfg.brkGated = true ∧ s.p.i = true → exec .brk s = .next s) ∧
    (s.cfg.brkGated = false ∨ s.p.i = false → exec .brk s = .next { s with
      ram := pushedThree s.ram s.sp (hiByte (s.pc + 1#16)) (loByte (s.pc + 1#16)) (s.p.pack true)
      sp := s.sp - 3#8
      p := { s.p with b := true, i := true }
      pc := mkWord (s.peek 0xFFFF#16) (s.peek 0xFFFE#16) })

/-- RTI: flags and PC from the stack, encoding. RTI pulls the status byte into N, V, B, D, I, Z and C (bit 5 is
ignored and the reserved flag stays set), then the low and the high byte of PC, with nothing added; SP rises by
three, wrapping; nothing else changes. The opcode, length and base cycles are the listed ones. (R263) -/
def Obligations.ReturnFromInterruptInstruction : Prop :=
  manualRows .rti =
    [⟨.imp, 0x40#8, 1, 6⟩] ∧
  ∀ s : State,
    let status := s.ram.read (0x0100 + (s.sp + 1#8).toNat)
    exec .rti s = .next { s with
      p :=
        { n := status.getLsbD 7, v := status.getLsbD 6, b := status.getLsbD 4, d := status.getLsbD 3,
          i := status.getLsbD 2, z := status.getLsbD 1, c := status.getLsbD 0 }
      pc := mkWord (s.ram.read (0x0100 + (s.sp + 3#8).toNat)) (s.ram.read (0x0100 + (s.sp + 2#8).toNat))
      sp := s.sp + 3#8 }

/-- The effective address of every mode but JMP indirect, its wraps, and when a page is crossed. Zero-page sums
wrap modulo 256; absolute indexed sums and (zp),Y sums wrap modulo 65536 and cross a page when the high bytes of
base and sum differ; the pointer of the two indexed-indirect modes is read from the zero page, its second byte
wrapping within it; the relative target is the post-fetch PC plus the signed offset modulo 65536. No other mode
crosses a page, and resolving changes nothing. The wraps within the zero page are the spec's decision D13, those
modulo 65536 its decision D14 (log 34). (30_encoding.md section 3) -/
def Obligations.EffectiveAddresses : Prop :=
  ∀ (z off : Byte) (w : Word) (s : State),
    let ea (f : AddrForm) : Nat := (resolve f s).ea.toNat
    let ptr (k : Nat) : Nat := 256 * (s.ram.read ((k + 1) % 256)).toNat + (s.ram.read (k % 256)).toNat
    ea (.zp z) = z.toNat ∧ ea (.zpx z) = (z.toNat + s.x.toNat) % 256 ∧
    ea (.zpy z) = (z.toNat + s.y.toNat) % 256 ∧ ea (.abs w) = w.toNat ∧
    ea (.abx w) = (w.toNat + s.x.toNat) % 65536 ∧ ea (.aby w) = (w.toNat + s.y.toNat) % 65536 ∧
    ea (.izx z) = ptr (z.toNat + s.x.toNat) ∧ ea (.izy z) = (ptr z.toNat + s.y.toNat) % 65536 ∧
    (ea (.rel off) : Int) = ((s.pc.toNat : Int) + off.toInt) % 65536 ∧
    ((resolve (.abx w) s).crossed = true ↔ ea (.abx w) / 256 ≠ w.toNat / 256) ∧
    ((resolve (.aby w) s).crossed = true ↔ ea (.aby w) / 256 ≠ w.toNat / 256) ∧
    ((resolve (.izy z) s).crossed = true ↔ ea (.izy z) / 256 ≠ ptr z.toNat / 256) ∧
    ∀ f : AddrForm, (f.mode ≠ .ind → (resolve f s).after = s) ∧
      (f.mode ∉ [.abx, .aby, .izy] → (resolve f s).crossed = false)

/-- What the read instructions leave unchanged. LDA, LDX, LDY, ADC, SBC, AND, ORA, EOR, CMP, CPX, CPY and BIT,
in every form: every register but the destination, SP, PC, every flag but those the instruction writes, every
byte outside the device windows, every PPU and OAM byte, the APU and all device registers are unchanged, but for
what one bus read of a device register may do (vblank, the latch w, the read buffer, the VRAM address, the
joypad); if the operand is not in a device window, not even that. (40_load_store_transfer.md section 1;
41_arithmetic_logic.md sections 2 to 4; 20_memory.md section 2 (R83)) -/
def Obligations.FrameOfReadInstructions : Prop :=
  ∀ (i : Instr) (s t : State), i.op ∈ readOps → exec i s = .next t →
    (i.op ∉ [.lda, .adc, .sbc, .and, .ora, .eor] → t.a = s.a) ∧ (i.op ≠ .ldx → t.x = s.x) ∧
    (i.op ≠ .ldy → t.y = s.y) ∧ t.sp = s.sp ∧ t.pc = s.pc ∧
    t.p.b = s.p.b ∧ t.p.d = s.p.d ∧ t.p.i = s.p.i ∧ (i.op ∉ [.adc, .sbc, .bit] → t.p.v = s.p.v) ∧
    (i.op ∉ [.adc, .sbc, .cmp, .cpx, .cpy] → t.p.c = s.p.c) ∧
    t.ram = s.ram ∧ t.apu = s.apu ∧ t.nmiPending = s.nmiPending ∧ t.totalCycles = s.totalCycles ∧
    t.cart = s.cart ∧ t.cfg = s.cfg ∧
    (∃ vb w rb va, t.ppu = { s.ppu with vblank := vb, w := w, readBuffer := rb, vramAddr := va }) ∧
    (∀ b, inDeviceWindow b = false → t.peek b = s.peek b) ∧
    ((∀ f, i.operand = .mem f → inDeviceWindow (resolve f s).ea = false) → t.ppu = s.ppu ∧ t.pad = s.pad)

/-- What the register, flag, branch and jump instructions leave unchanged. The transfers, the register
increments and decrements, the accumulator shifts, the flag instructions, NOP, the branches and JMP absolute
change registers and flags only, and of those only the ones their rules name; every byte the bus can read reads
as before. (40_load_store_transfer.md section 3; 41_arithmetic_logic.md section 5; 42_shift_rotate.md;
43_control_flow.md; 44_stack_flags_system.md sections 2 and 3) -/
def Obligations.FrameOfRegisterInstructions : Prop :=
  ∀ (i : Instr) (s t : State), RegisterOnly i → exec i s = .next t →
    t = { s with a := t.a, x := t.x, y := t.y, sp := t.sp, pc := t.pc, p := t.p } ∧
    (i.op ∉ [.txa, .tya, .asl, .lsr, .rol, .ror] → t.a = s.a) ∧
    (i.op ∉ [.tax, .tsx, .inx, .dex] → t.x = s.x) ∧ (i.op ∉ [.tay, .iny, .dey] → t.y = s.y) ∧
    (i.op ≠ .txs → t.sp = s.sp) ∧
    (i.op ∉ [.bpl, .bmi, .bvc, .bvs, .bcc, .bcs, .bne, .beq, .jmp] → t.pc = s.pc) ∧
    (i.op ∉ [.tax, .tay, .txa, .tya, .tsx, .inx, .iny, .dex, .dey, .asl, .lsr, .rol, .ror] →
      t.p.n = s.p.n ∧ t.p.z = s.p.z) ∧
    (i.op ≠ .clv → t.p.v = s.p.v) ∧ t.p.b = s.p.b ∧ (i.op ∉ [.cld, .sed] → t.p.d = s.p.d) ∧
    (i.op ∉ [.cli, .sei] → t.p.i = s.p.i) ∧
    (i.op ∉ [.clc, .sec, .asl, .lsr, .rol, .ror] → t.p.c = s.p.c) ∧
    ∀ b, t.peek b = s.peek b

/-- What the storing instructions leave unchanged. STA, STX, STY and the memory forms of INC, DEC, ASL, LSR,
ROL, ROR, with ea the effective address their operand resolves to: the registers, SP and PC are unchanged; the
stores write no flag, the others at most N, Z and C; every byte outside the device windows that is not the work
RAM cell ea names reads as before; if ea is not in a device window, no device changes.
(40_load_store_transfer.md section 2; 41_arithmetic_logic.md section 5; 42_shift_rotate.md; 20_memory.md
sections 1 and 2) -/
def Obligations.FrameOfStoringInstructions : Prop :=
  ∀ (i : Instr) (s t : State) (f : AddrForm), i.op ∈ storeOps ++ modifyOps → i.operand = .mem f → exec i s = .next t →
    let ea := (resolve f s).ea
    t.a = s.a ∧ t.x = s.x ∧ t.y = s.y ∧ t.sp = s.sp ∧ t.pc = s.pc ∧
    (i.op ∈ storeOps → t.p = s.p) ∧ t.p.b = s.p.b ∧ t.p.d = s.p.d ∧ t.p.i = s.p.i ∧ t.p.v = s.p.v ∧
    (i.op ∈ [.inc, .dec] → t.p.c = s.p.c) ∧
    t.nmiPending = s.nmiPending ∧ t.totalCycles = s.totalCycles ∧ t.cart = s.cart ∧ t.cfg = s.cfg ∧
    (∀ b, inDeviceWindow b = false → sameRamCell b ea = false → t.peek b = s.peek b) ∧
    (inDeviceWindow ea = false → t.ppu = s.ppu ∧ t.apu = s.apu ∧ t.pad = s.pad)

/-- What the stack instructions leave unchanged. PHA, PHP, PLA, PLP, JSR, RTS, BRK and RTI: X, Y, the devices
and the counters are unchanged, A but for PLA, the flags but for those the instruction writes; of memory only
the work RAM cells of the bytes pushed change, at 0x0100 + SP and downward, wrapping in the page: one for PHA
and PHP, two for JSR, three for an ungated BRK, none for the others. (10_state.md section 2 (R27);
43_control_flow.md section 2; 44_stack_flags_system.md sections 1 and 4) -/
def Obligations.FrameOfStackInstructions : Prop :=
  ∀ (i : Instr) (s t : State), i.op ∈ stackOps → exec i s = .next t →
    (i.op ≠ .pla → t.a = s.a) ∧ t.x = s.x ∧ t.y = s.y ∧
    (i.op ∈ [.pha, .php, .jsr, .rts] → t.p = s.p) ∧
    (i.op = .pla → t.p = { s.p with n := t.p.n, z := t.p.z }) ∧
    (i.op = .brk → t.p = { s.p with b := t.p.b, i := t.p.i }) ∧
    (i.op ∉ [.jsr, .rts, .brk, .rti] → t.pc = s.pc) ∧
    t.ppu = s.ppu ∧ t.apu = s.apu ∧ t.pad = s.pad ∧ t.totalCycles = s.totalCycles ∧ t.extra = s.extra ∧
    t.nmiPending = s.nmiPending ∧ t.cart = s.cart ∧ t.cfg = s.cfg ∧
    ∀ b, (∀ k < pushedBytes i s, sameRamCell b (stackAddr (s.sp - BitVec.ofNat 8 k)) = false) →
      t.peek b = s.peek b

/-- Work RAM is mirrored four times, and its reads change nothing. A byte written through an address of the work
RAM window is read back through every address of the window that is congruent to it modulo 0x0800, and no other
address of the window reads differently; the write changes nothing but work RAM, and a read of the window
changes nothing. (R74) -/
def Obligations.WorkRamMirrors : Prop :=
  ∀ (a b : Word) (v : Byte) (s : State), inRam a = true → inRam b = true →
    (memWrite a v s).peek b = (if a.toNat % 0x0800 = b.toNat % 0x0800 then v else s.peek b) ∧
    memWrite a v s = { s with ram := (memWrite a v s).ram } ∧
    memRead b s = (s.peek b, s)

/-- The PPU register mirrors, the ROM window and the addresses in no window. An access at 0x2000 to 0x3FFF is
one at 0x2000 plus the address modulo 8. A read of the ROM window gives the program byte at the offset modulo
the ROM size, so a one-bank image repeats at 0xC000; a read of 0x4020 to 0x7FFF gives zero; neither read changes
anything, and a write to any of them changes nothing. The zero and the ignored writes are the spec's decision
D18, the map its decision D17 (log 12). (20_memory.md section 1) -/
def Obligations.OtherWindows : Prop :=
  ∀ (a : Word) (v : Byte) (s : State),
    (0x2000 ≤ a.toNat → a.toNat ≤ 0x3FFF →
      memRead a s = memRead (0x2000#16 + BitVec.ofNat 16 (a.toNat % 8)) s ∧
      memWrite a v s = memWrite (0x2000#16 + BitVec.ofNat 16 (a.toNat % 8)) v s) ∧
    (0x8000 ≤ a.toNat →
      memRead a s = (s.cart.prg.read ((a.toNat - 0x8000) % s.cart.prgSize), s) ∧ memWrite a v s = s) ∧
    (0x8000 ≤ a.toNat → a.toNat ≤ 0xBFFF → s.cart.prgBanks = .one → s.peek (a + 0x4000#16) = s.peek a) ∧
    (0x4020 ≤ a.toNat → a.toNat ≤ 0x7FFF → memRead a s = (0x00#8, s) ∧ memWrite a v s = s)

/-- What a write to each PPU register does. A bus write at 0x2000 to 0x3FFF, by the address modulo 8: the two
control registers; nothing; the OAM address; the OAM byte there, advancing the OAM address modulo 256; the
scroll byte the latch selects; the VRAM address byte the latch selects; the PPU byte at the VRAM address,
advancing it by its step modulo 65536. Registers 5 and 6 toggle the one latch. It changes nothing else. (R273) -/
def Obligations.PpuRegisterWrites : Prop :=
  ∀ (a : Word) (v : Byte) (s : State), 0x2000 ≤ a.toNat → a.toNat ≤ 0x3FFF →
    let u := s.ppu
    let does (n : Nat) (u' : Ppu) : Prop := a.toNat % 8 = n → memWrite a v s = { s with ppu := u' }
    does 0 { u with ctrl1 := v } ∧
    does 1 { u with ctrl2 := v } ∧
    does 2 u ∧
    does 3 { u with oamAddr := v } ∧
    does 4 { u with oam := u.oam.write u.oamAddr.toNat v, oamAddr := u.oamAddr + 1#8 } ∧
    does 5 (if u.w then { u with scrollY := v, w := false } else { u with scrollX := v, w := true }) ∧
    does 6 (if u.w then { u with vramAddr := (u.vramAddr &&& 0xFF00#16) ||| v.setWidth 16, w := false }
      else { u with vramAddr := (v.setWidth 16 <<< 8) ||| (u.vramAddr &&& 0x00FF#16), w := true }) ∧
    does 7 { ppuWrite s.cart u u.vramAddr.toNat v with
      vramAddr := u.vramAddr + (if u.ctrl1.getLsbD 2 then 32#16 else 1#16) }

/-- What a read of each PPU register gives and changes. A bus read at 0x2000 to 0x3FFF, by the address modulo 8:
register 2 gives the three status flags in bits 7, 6, 5 and zeros below, and clears vblank and the latch;
register 4 gives the OAM byte at the OAM address and changes nothing; register 7 gives the old read buffer below
the palette region and the palette byte inside it, refills the buffer and advances the VRAM address by its step;
the others give zero and change nothing. The zeros, the OAM read and the refill under the palette are the spec's
decisions D21, D25, D24 (log 30). (45_ppu_registers.md sections 1, 3, 4 and 6) -/
def Obligations.PpuRegisterReads : Prop :=
  ∀ (a : Word) (s : State), 0x2000 ≤ a.toNat → a.toNat ≤ 0x3FFF →
    let u := s.ppu
    let va := u.vramAddr.toNat % 0x4000
    let next := u.vramAddr + (if u.ctrl1.getLsbD 2 then 32#16 else 1#16)
    (a.toNat % 8 = 2 →
      (memRead a s).1.toNat = 128 * bit01 u.vblank + 64 * bit01 u.sprite0Hit + 32 * bit01 u.spriteOverflow ∧
      (memRead a s).2 = { s with ppu := { u with vblank := false, w := false } }) ∧
    (a.toNat % 8 = 4 → memRead a s = (u.oam.read u.oamAddr.toNat, s)) ∧
    (a.toNat % 8 = 7 → va < 0x3F00 →
      memRead a s =
        (u.readBuffer, { s with ppu := { u with readBuffer := ppuRead s.cart u va, vramAddr := next } })) ∧
    (a.toNat % 8 = 7 → 0x3F00 ≤ va →
      memRead a s = (ppuRead s.cart u va,
        { s with ppu := { u with readBuffer := ppuRead s.cart u (va - 0x1000), vramAddr := next } })) ∧
    (a.toNat % 8 ∈ [0, 1, 3, 5, 6] → memRead a s = (0x00#8, s))

/-- A nametable byte is read back through every image of its address and no other. For two addresses in 0x2000
to 0x3EFF: a byte written through one is read through the other exactly when they have the same offset in their
tables and the tables are kept in the same physical one (0 with 1 and 2 with 3 under horizontal mirroring, 0
with 2 and 1 with 3 under vertical); otherwise the other reads as before. That 0x3000 to 0x3EFF repeats 0x2000
to 0x2EFF is the spec's own reading. (20_memory.md section 3 (R93)) -/
def Obligations.NametableMirroring : Prop :=
  ∀ (cart : Cartridge) (u : Ppu) (a b : Nat) (v : Byte),
    0x2000 ≤ a → a ≤ 0x3EFF → 0x2000 ≤ b → b ≤ 0x3EFF →
    ppuRead cart (ppuWrite cart u a v) b =
      if physicalTable cart.mirroring a = physicalTable cart.mirroring b ∧ a % 0x400 = b % 0x400 then v
      else ppuRead cart u b

/-- Palette aliases, character ROM against character RAM, and that the regions are separate. For two addresses
of the palette region: a byte written through one is read through the other exactly when they name the same
entry, where every address repeats modulo 32 and the four backdrop entries of the sprite palettes are those of
the background palettes. A pattern byte is written when the cartridge has no character ROM and ignored when it
has. A write in one region changes no byte of another; addresses repeat modulo 0x4000. The four aliases and the
character RAM are the spec's decisions D26 and D30. (20_memory.md section 3 (R90 to R92, R95)) -/
def Obligations.PaletteAndCharacterMemory : Prop :=
  ∀ (cart : Cartridge) (u : Ppu) (a b : Nat) (v : Byte), a < 0x4000 → b < 0x4000 →
    (0x3F00 ≤ a → 0x3F00 ≤ b →
      ppuRead cart (ppuWrite cart u a v) b = if paletteEntry a = paletteEntry b then v else ppuRead cart u b) ∧
    (a ≤ 0x1FFF → b ≤ 0x1FFF →
      ppuRead cart (ppuWrite cart u a v) b = if cart.chr = none ∧ a = b then v else ppuRead cart u b) ∧
    (decide (a ≤ 0x1FFF) ≠ decide (b ≤ 0x1FFF) ∨ decide (a ≤ 0x3EFF) ≠ decide (b ≤ 0x3EFF) →
      ppuRead cart (ppuWrite cart u a v) b = ppuRead cart u b) ∧
    ppuRead cart u (b + 0x4000) = ppuRead cart u b ∧ ppuWrite cart u (a + 0x4000) v = ppuWrite cart u a v

/-- A write to 0x4014 copies a whole page into OAM and costs the penalty once. For every page: a write of its
number to 0x4014 makes 256 bus reads of the page in ascending order, each with whatever effect that read has,
and puts the byte of offset i in the OAM byte i places after the OAM address, wrapping, before the next read;
then the additional cycles grow by the penalty, once; the OAM address ends unchanged. For a page outside the
device windows: each of the 256 OAM bytes so addressed is the byte at its offset of the page, and nothing but
OAM and the additional cycles changes. That any page is copied by ordinary bus reads, the start at the OAM
address and the fixed penalty are the spec's decision D36 (log 27). (48_sync_dma_joypad.md section 2 (R410,
R412); 20_memory.md section 1) -/
def Obligations.OamDmaCopiesAPage : Prop :=
  (∀ (page : Byte) (s : State),
    let copy (m : State) (i : Nat) : State :=
      let r := memRead (mkWord page (BitVec.ofNat 8 i)) m
      { r.2 with ppu.oam := r.2.ppu.oam.write ((s.ppu.oamAddr.toNat + i) % 256) r.1 }
    let u := (List.range 256).foldl copy s
    memWrite 0x4014#16 page s = { u with extra := s.extra + s.cfg.dmaPenalty } ∧
    u.ppu.oamAddr = s.ppu.oamAddr) ∧
  ∀ (page : Byte) (s : State), page.toNat < 0x20 ∨ 0x41 ≤ page.toNat →
    let t := memWrite 0x4014#16 page s
    (∀ i < 256, t.ppu.oam.read ((s.ppu.oamAddr.toNat + i) % 256) = s.peek (mkWord page (BitVec.ofNat 8 i))) ∧
    t = { s with ppu := { s.ppu with oam := t.ppu.oam }, extra := s.extra + s.cfg.dmaPenalty }

/-- The joypad: the strobe latches, reads return the buttons in order and cycle after eight. After writes of 1
and 0 to the strobe, the n-th read returns the bit n modulo 8 of the buttons as they were at the latch, whatever
they are later; while the strobe is high every read returns button A as it is now; a byte returned is 0 or 1; a
write of an even value only lowers the strobe; the port is at 0x4016 and an access changes nothing else. The bit
numbering, the loading on the rising write and the zero upper bits are the spec's decisions D19 and D37 (log
28). (48_sync_dma_joypad.md section 3) -/
def Obligations.JoypadProtocol : Prop :=
  (∀ (latched later : Byte) (u : Pad) (n : Nat),
    (padRead later (padAfter later n (padWrite latched (padWrite latched u 0x01#8) 0x00#8))).1 =
      buttonByte (latched.getLsbD (n % 8))) ∧
  (∀ (input later v : Byte) (u : Pad) (n : Nat), v.getLsbD 0 = true →
    (padRead later (padAfter later n (padWrite input u v))).1 = buttonByte (later.getLsbD 0)) ∧
  (∀ (input v : Byte) (u : Pad), v.getLsbD 0 = false → padWrite input u v = { u with strobe := false }) ∧
  (∀ b : Bool, (buttonByte b).toNat = bit01 b) ∧
  ∀ (v : Byte) (s : State),
    memRead 0x4016#16 s = ((padRead s.padInput s.pad).1, { s with pad := (padRead s.padInput s.pad).2 }) ∧
    memWrite 0x4016#16 v s = { s with pad := padWrite s.padInput s.pad v }

/-- What a write to each APU register does. The control, sweep, period and length registers of both pulse
channels, the triangle's control, period and length, the noise stub's bytes and the enable register, each
storing the fields of the byte written; a period half leaves the other half; a length is loaded from the table
by the selector in bits 7 to 3 only while the channel is enabled; disabling a channel zeroes its length; every
other address is ignored. A bus write to any address from 0x4000 to 0x401F but 0x4014 and 0x4016 is this write
of the APU and changes nothing else. The bus map is the spec's decision D17 (log 12), and that 0x4017 is an APU
address its decision D19 (log 28); the register map and the length table are the spec's decision D33 (R372), the
halt and volume bits, the enable register, the triangle and the ignored addresses its decision D34 (R367, R371,
R374, R376), the noise bytes its decision D35 (R373), all in log 29. (47_apu_channels.md section 1 (R365);
47_apu_channels.md section 2 (R367 to R370); 47_apu_channels.md section 3 (R371 to R374, R376); 20_memory.md
section 1 (R73, R76)) -/
def Obligations.ApuRegisterWrites : Prop :=
  (∀ (a : Word) (v : Byte) (s : State), 0x4000 ≤ a.toNat → a.toNat ≤ 0x401F → a ≠ 0x4014#16 → a ≠ 0x4016#16 →
    memWrite a v s = { s with apu := apuWrite s.apu a.toNat v }) ∧
  ∀ (u : Apu) (v : Byte),
    let low (p : BitVec 11) : BitVec 11 := (p &&& 0x700#11) ||| v.setWidth 11
    let high (p : BitVec 11) : BitVec 11 := (p &&& 0x0FF#11) ||| ((v.extractLsb' 0 3).setWidth 11 <<< 8)
    let len : Byte := lengthTable.getD (v.toNat / 8) 0x00#8
    (let p := u.pulse1
    apuWrite u 0x4000 v = { u with pulse1 := { p with
      duty := v.extractLsb' 6 2, halt := v.getLsbD 5, volume := v.extractLsb' 0 4 } } ∧
    apuWrite u 0x4001 v = { u with pulse1 := { p with
      swEnable := v.getLsbD 7, swRate := v.extractLsb' 4 3, swNegate := v.getLsbD 3, swShift := v.extractLsb' 0 3,
      swReload := true } } ∧
    apuWrite u 0x4002 v = { u with pulse1 := { p with period := low p.period } } ∧
    apuWrite u 0x4003 v = { u with pulse1 := { p with
      period := high p.period, length := if p.enabled then len else p.length } }) ∧
    (let p := u.pulse2
    apuWrite u 0x4004 v = { u with pulse2 := { p with
      duty := v.extractLsb' 6 2, halt := v.getLsbD 5, volume := v.extractLsb' 0 4 } } ∧
    apuWrite u 0x4005 v = { u with pulse2 := { p with
      swEnable := v.getLsbD 7, swRate := v.extractLsb' 4 3, swNegate := v.getLsbD 3, swShift := v.extractLsb' 0 3,
      swReload := true } } ∧
    apuWrite u 0x4006 v = { u with pulse2 := { p with period := low p.period } } ∧
    apuWrite u 0x4007 v = { u with pulse2 := { p with
      period := high p.period, length := if p.enabled then len else p.length } }) ∧
    apuWrite u 0x4008 v = { u with triCtrl := v } ∧
    apuWrite u 0x400A v = { u with triPeriod := low u.triPeriod } ∧
    apuWrite u 0x400B v = { u with
      triPeriod := high u.triPeriod, triLength := if u.triEnabled then len else u.triLength } ∧
    (∀ k < 4, apuWrite u (0x400C + k) v = { u with noiseReg := u.noiseReg.write k v }) ∧
    apuWrite u 0x4015 v = { u with
      pulse1 := { u.pulse1 with
        enabled := v.getLsbD 0, length := if v.getLsbD 0 then u.pulse1.length else 0x00#8 }
      pulse2 := { u.pulse2 with
        enabled := v.getLsbD 1, length := if v.getLsbD 1 then u.pulse2.length else 0x00#8 }
      triEnabled := v.getLsbD 2
      triLength := if v.getLsbD 2 then u.triLength else 0x00#8
      noiseEnabled := v.getLsbD 3 } ∧
    ∀ a, a ∈ [0x4009, 0x4010, 0x4011, 0x4012, 0x4013] ∨ 0x4017 ≤ a → apuWrite u a v = u

/-- The length table, the length clock, and the status byte at 0x4015. The table has the 32 listed durations; a
half-frame takes one from a length that is not halted and not zero and leaves every other alone, for both pulses
and the triangle; a read of 0x4015 gives bits 0, 1, 2 for the channels whose length is not zero and zeros above,
a read of any other APU address gives zero, and no read changes the APU. Table, halt and status are the spec's
decisions D33 and D34 (log 29). (47_apu_channels.md sections 1, 3 and 4) -/
def Obligations.LengthCountersAndStatus : Prop :=
  lengthTable.map BitVec.toNat =
    [10, 254, 20, 2, 40, 4, 80, 6, 160, 8, 60, 10, 14, 12, 26, 14] ++
    [12, 16, 24, 18, 48, 20, 96, 22, 192, 24, 72, 26, 16, 28, 32, 30] ∧
  (∀ u : Apu,
    let t := halfFrame u
    t.pulse1.length.toNat = (if u.pulse1.halt then u.pulse1.length.toNat else u.pulse1.length.toNat - 1) ∧
    t.pulse2.length.toNat = (if u.pulse2.halt then u.pulse2.length.toNat else u.pulse2.length.toNat - 1) ∧
    t.triLength.toNat = (if u.triCtrl.getLsbD 7 then u.triLength.toNat else u.triLength.toNat - 1)) ∧
  ∀ (a : Word) (s : State), 0x4000 ≤ a.toNat → a.toNat ≤ 0x401F → a ≠ 0x4016#16 →
    (memRead a s).2 = s ∧
    (memRead a s).1.toNat = if a = 0x4015#16 then
      min 1 s.apu.pulse1.length.toNat + 2 * min 1 s.apu.pulse2.length.toNat + 4 * min 1 s.apu.triLength.toNat
      else 0

/-- A half-frame clocks each pulse's length and then its sweep, then the triangle's length; the sweep unit. A
half-frame clocks pulse 1, pulse 2 and the triangle: each pulse has its length taken down by one if it is
neither halted nor zero, and then a sweep clock; the triangle its length; no other field of the APU changes.
With delta the period shifted right by the shift, a sweep clock sets the period to period minus or plus delta,
exactly, when the divider is zero, the sweep is enabled, the shift is not zero, the period is at least 8 and the
target at most 0x7FF, and else leaves it; the divider reloads from the rate when it is zero or a reload is asked
for, which is then cleared, and else counts down; nothing else changes. The clocking, the halt and the guards
are the spec's decision D34 (log 29). (47_apu_channels.md section 4 (R380, R381, R382)) -/
def Obligations.SweepClock : Prop :=
  (∀ u : Apu,
    let clocked (p : Pulse) : Pulse :=
      pulseSweepClock { p with length := if p.halt = true ∨ p.length = 0x00#8 then p.length else p.length - 1#8 }
    halfFrame u = { u with
      pulse1 := clocked u.pulse1
      pulse2 := clocked u.pulse2
      triLength := if u.triCtrl.getLsbD 7 = true ∨ u.triLength = 0x00#8 then u.triLength else u.triLength - 1#8 }) ∧
  ∀ p : Pulse,
    let t := pulseSweepClock p
    let delta := p.period.toNat / 2 ^ p.swShift.toNat
    let target := if p.swNegate then p.period.toNat - delta else p.period.toNat + delta
    let acts := p.swDiv = 0#3 ∧ p.swEnable = true ∧ 0 < p.swShift.toNat ∧ 8 ≤ p.period.toNat ∧ target ≤ 0x7FF
    let reloads := p.swDiv = 0#3 ∨ p.swReload = true
    t = { p with period := t.period, swDiv := t.swDiv, swReload := t.swReload } ∧
    (acts → t.period.toNat = target) ∧ (¬acts → t.period = p.period) ∧
    (reloads → t.swDiv = p.swRate ∧ t.swReload = false) ∧
    (¬reloads → t.swDiv.toNat = p.swDiv.toNat - 1 ∧ t.swReload = p.swReload)

/-- APU time depends only on the total of the cycle counts. For a positive half-frame, running the APU for a
cycles and then for b is running it for a + b; the accumulator ends as the old one plus the cycles, modulo the
half-frame; and a run that does not fill a half-frame changes the accumulator only. The cadence is the spec's
decision D34. (47_apu_channels.md section 4 (R380)) -/
def Obligations.ApuTimeDependsOnTheTotal : Prop :=
  ∀ (h a b : Nat) (u : Apu), 0 < h →
    apuRun h b (apuRun h a u) = apuRun h (a + b) u ∧
    (apuRun h a u).acc = (u.acc + a) % h ∧
    (u.acc + a < h → apuRun h a u = { u with acc := u.acc + a }) ∧
    (u.acc < h → u.acc + a = h → apuRun h a u = { halfFrame u with acc := 0 })

/-- PPU time depends only on the total of the cycle counts. Running the PPU for a cycles and then for b leaves
the same state as running it for a + b, but for frame ready, which the run for a + b reports exactly when one of
the two does. (46_ppu_rendering_timing.md section 1 (R324)) -/
def Obligations.PpuTimeDependsOnTheTotal : Prop :=
  ∀ (a b : Nat) (s : State),
    let s1 := ppuRun a s
    let s2 := ppuRun b s1
    ppuRun (a + b) s = { s2 with frameReady := s1.frameReady || s2.frameReady }

/-- Frame ready is reported exactly when the 240/241 boundary is crossed, once in 341 x 262 dots. With the
counters in range, a run of c cycles advances the position in the frame by 3c dots modulo 89342, keeps the
counters in range, reports frame ready exactly when it reaches or passes a dot total of 82181 in some frame, and
raises the NMI request exactly then if NMI is enabled, and else leaves it. That the request is made there and
nowhere else is the spec's decision D32. (46_ppu_rendering_timing.md section 1 (R320, R321, R322, R325, R326)) -/
def Obligations.FrameReadyAtVblankEntry : Prop :=
  ∀ (c : Nat) (s : State), CountersInRange s →
    let t := ppuRun c s
    CountersInRange t ∧ framePosition t = (framePosition s + 3 * c) % (341 * 262) ∧
    (t.frameReady = true ↔
      ∃ frames, framePosition s < 341 * (262 * frames + 241) ∧
        341 * (262 * frames + 241) ≤ framePosition s + 3 * c) ∧
    t.nmiPending = (s.nmiPending || (t.frameReady && s.ppu.ctrl1.getLsbD 7))

/-- Each line that completes has its action, which the run performs at the wrap; within a line nothing happens.
Completing line 0 to 239 renders it and advances the line; line 240 advances it, sets vblank, raises the NMI
request if enabled and reports frame ready; lines 241 to 260 only advance it; line 261 clears vblank, the two
sprite flags and the sprite layer and returns to line 0, leaving everything else. A run that does not complete
the line only counts its dots and clears frame ready; a run that completes one line takes its 341 dots off and
performs its action, whatever the line. Longer runs are sums of these by PpuTimeDependsOnTheTotal. The order of
the actions is the spec's decision D27 (log 17), that the request is made there its decision D32 (log 30); that
frame ready is a field is the model's choice (log 6). (46_ppu_rendering_timing.md section 1 (R320, R322, R323,
R326, R327)) -/
def Obligations.LineEnds : Prop :=
  ∀ s : State,
    let u := s.ppu
    (u.line ≤ 239 → endLine s = { s with ppu := { renderLine s.cart u u.line with line := u.line + 1 } }) ∧
    (u.line = 240 → endLine s = { s with
      ppu := { u with vblank := true, line := 241 }
      nmiPending := s.nmiPending || u.ctrl1.getLsbD 7
      frameReady := true }) ∧
    (241 ≤ u.line → u.line ≤ 260 → endLine s = { s with ppu := { u with line := u.line + 1 } }) ∧
    (u.line = 261 → endLine s = { s with ppu := { u with
      vblank := false, sprite0Hit := false, spriteOverflow := false, spriteLayer := [], line := 0 } }) ∧
    (∀ c, u.dot + 3 * c < 341 →
      ppuRun c s = { s with ppu := { u with dot := u.dot + 3 * c }, frameReady := false }) ∧
    ∀ c, 341 ≤ u.dot + 3 * c → u.dot + 3 * c < 682 →
      ppuRun c s = endLine { s with ppu := { u with dot := u.dot + 3 * c - 341 }, frameReady := false }

/-- Sprite-0 hit and sprite overflow after a line. Rendering line L sets sprite-0 hit exactly when the Y of OAM
entry 0 is L, and sprite overflow exactly when nine or more of the 64 entries have Y equal to L; neither is ever
cleared by it, and neither depends on tiles, pixels, X or the enable bits. The exact-Y match and the
independence of the enables are the spec's decision D29 (log 26). (46_ppu_rendering_timing.md section 3 (R340,
R345, R346, R347)) -/
def Obligations.SpriteFlags : Prop :=
  ∀ (cart : Cartridge) (u : Ppu) (l : Nat),
    let t := renderLine cart u l
    let matching := (List.range 64).filter fun i => (u.oam.read (4 * i)).toNat == l
    t.sprite0Hit = (u.sprite0Hit || decide ((u.oam.read 0).toNat = l)) ∧
    t.spriteOverflow = (u.spriteOverflow || decide (9 ≤ matching.length))

/-- A background band is drawn when its first line completes, every cell of it and no other. Rendering line L,
below 240: if L is a multiple of 8 and the background is enabled, every cell of rows L to L + 7 takes the pixel
that the scroll registers, the nametable select bits, the nametables, the attribute quadrant, the selected
pattern table and the background palette give its position: the low six bits of entry px of the palette its
quadrant selects, opaque exactly when px, the two-bit pixel of its tile, is not zero. Every other cell keeps
what it held; otherwise the background layer is unchanged. The pixel formula is the spec's decision D28 and the
plane order its decision D30 (log 26). (46_ppu_rendering_timing.md section 2 (R330, R331, R335)) -/
def Obligations.BackgroundBand : Prop :=
  ∀ (cart : Cartridge) (u : Ppu) (l y x : Nat), l < 240 → y < 240 → x < 256 →
    let base := if u.ctrl1.getLsbD 4 then 0x1000 else 0x0000
    let sx := (x + u.scrollX.toNat + 256 * bit01 (u.ctrl1.getLsbD 0)) % 512
    let sy := (y + u.scrollY.toNat + 240 * bit01 (u.ctrl1.getLsbD 1)) % 480
    let table := 0x2000 + 0x400 * (2 * (sy / 240) + sx / 256)
    let tx := sx % 256 / 8
    let ty := sy % 240 / 8
    let tile := (ppuRead cart u (table + 32 * ty + tx)).toNat
    let attr := (ppuRead cart u (table + 0x3C0 + 8 * (ty / 4) + tx / 4)).toNat
    let pal := attr / 2 ^ (4 * (ty % 4 / 2) + 2 * (tx % 4 / 2)) % 4
    let px := patternPixel cart u base tile (sx % 8) (sy % 8)
    (renderLine cart u l).bgLayer.cell y x =
      if l % 8 = 0 ∧ u.ctrl2.getLsbD 3 = true ∧ l ≤ y ∧ y < l + 8 then
        some { colour := (ppuRead cart u (0x3F00 + 4 * pal + px)).setWidth 6, solid := decide (px ≠ 0) }
      else u.bgLayer.cell y x

/-- Drawing a sprite: each opaque pixel in its place, transparent and clipped pixels nothing. Drawing an 8 by 8
tile at row L, column X, with its flips: an opaque pixel that lies within the raster puts in its cell the low
six bits of the entry that its two-bit pixel selects in its sprite palette, and its behind bit; a cell of a
transparent pixel, and every cell outside the tile, keeps what it held. Position, sizes and order are the spec's
decisions D29 and D31, the plane order its decision D30 (log 26). (46_ppu_rendering_timing.md section 3 (R341);
46_ppu_rendering_timing.md section 2 (R331)) -/
def Obligations.SpritePixels : Prop :=
  ∀ (cart : Cartridge) (u : Ppu) (l y z : Nat) (t attr x : Byte), y < 240 → z < 256 →
    (drawSprite cart u l t attr x).spriteLayer.cell y z =
      (spritePixelAt cart u l t attr x y z).or (u.spriteLayer.cell y z)

/-- Entering a handler: what is pushed, which flags change, where PC goes. Entry by NMI, IRQ or BRK pushes PC
high, PC low and the status byte, whose bit 4 is set for BRK alone and whose I is the old one; SP falls by
three, wrapping; B says whether it was BRK and I is set; PC is the little-endian word at 0xFFFA for NMI and
0xFFFE for the others; nothing else changes. Bit 4 for IRQ, the setting of I and the vector addresses are the
spec's decisions D7, D6, D11 (logs 14 and 23). (60_exceptions.md section 2 (R445); 20_memory.md section 1 (R79)) -/
def Obligations.InterruptEntry : Prop :=
  ∀ (k : InterruptKind) (s : State),
    let v : Word := if k = .nmi then 0xFFFA#16 else 0xFFFE#16
    interrupt k s = { s with
      ram := pushedThree s.ram s.sp (hiByte s.pc) (loByte s.pc) (s.p.pack (decide (k = .brk)))
      sp := s.sp - 3#8
      p := { s.p with b := decide (k = .brk), i := true }
      pc := mkWord (s.peek (v + 1#16)) (s.peek v) }

/-- The poll at the start of a step: NMI first and unmasked, then IRQ if I is clear. A step begins with no
additional cycles and at most one entry: a pending NMI is acknowledged and taken whatever I is; else a high IRQ
line with I clear is taken; else nothing changes. Poll point, level sensing and priority are the spec's
decisions D4 and D5 (log 14). (60_exceptions.md section 2 (R440, R442); 60_exceptions.md section 1 (R435, R436)) -/
def Obligations.InterruptPoll : Prop :=
  ∀ s : State,
    let s0 := { s with extra := 0 }
    (s.nmiPending = true → beginStep s = interrupt .nmi { s0 with nmiPending := false }) ∧
    (s.nmiPending = false → s.irqLine = true → s.p.i = false → beginStep s = interrupt .irq s0) ∧
    (s.nmiPending = false → (s.irqLine = false ∨ s.p.i = true) → beginStep s = s0)

/-- RTI right after an entry restores PC, SP and every flag but B. For every event and every state, at every SP:
executing RTI at the state the entry leaves gives PC, SP and the flags N, V, D, I, Z, C as they were before the
entry, with B low for NMI and IRQ and high for BRK; A, X, Y and the devices are untouched, and work RAM differs
by the three pushed bytes alone: PC high, PC low and the status byte, at the stack pointer and the two places
below it, wrapping. That B is low after an IRQ is the spec's decision D7 (log 14). (60_exceptions.md sections 2
and 3 (R445, R450); 10_state.md section 2 (R26, R27)) -/
def Obligations.ReturnUndoesInterruptEntry : Prop :=
  ∀ (k : InterruptKind) (s : State),
    let b := decide (k = .brk)
    exec .rti (interrupt k s) = .next { s with
      ram := pushedThree s.ram s.sp (hiByte s.pc) (loByte s.pc) (s.p.pack b), p := { s.p with b := b } }

/-- What RESET leaves in every piece of state. RESET, applied to any state, loads PC from 0xFFFC, sets I, gives
A, X, Y, SP and the other flags the parameter RESET_REGS, the character memory the cartridge's character ROM (or
zeros), and every other register, memory, counter and layer zero, false or empty, every field of both pulse
channels among them; frame ready is false; the cartridge, the parameters and the inputs stay. The source gives
that PC is loaded from a vector and that I is set; the vector's address is the spec's decision D11 (log 23),
RESET_REGS its decision D12 (log 3), the zeros its decision D39 (log 4), that a later RESET restores the whole
power-on state R470's decision, D12 and D39 (log 22); frame ready, the additional cycles and what stays are the
model's (logs 6, 7, 9). (10_state.md section 9 (R61); 70_reset_and_hazards.md section 1 (R470, R471)) -/
def Obligations.ResetState : Prop :=
  ∀ s : State,
    let t := s.hostReset
    let r := s.cfg.resetRegs
    let pulse : Pulse := { duty := 0#2, halt := false, volume := 0#4, period := 0#11, length := 0x00#8,
                           enabled := false, swEnable := false, swRate := 0#3, swNegate := false, swShift := 0#3,
                           swDiv := 0#3, swReload := false }
    t.pc = mkWord (s.peek 0xFFFD#16) (s.peek 0xFFFC#16) ∧
    t.p = { n := r.n, v := r.v, b := r.b, d := r.d, i := true, z := r.z, c := r.c } ∧
    t.a = r.a ∧ t.x = r.x ∧ t.y = r.y ∧ t.sp = r.sp ∧ t.totalCycles = 0 ∧ t.extra = 0 ∧ t.nmiPending = false ∧
    t.frameReady = false ∧
    (∀ a, t.ram.read a = 0x00#8 ∧ t.ppu.ntRam.read a = 0x00#8 ∧ t.ppu.palette.read a = 0x00#8 ∧
      t.ppu.oam.read a = 0x00#8 ∧ t.apu.noiseReg.read a = 0x00#8) ∧
    (∀ rom, s.cart.chr = some rom → t.ppu.chr = rom) ∧
    (s.cart.chr = none → ∀ a, t.ppu.chr.read a = 0x00#8) ∧
    (∀ y x, t.ppu.bgLayer.cell y x = none ∧ t.ppu.spriteLayer.cell y x = none) ∧
    t.ppu = { t.ppu with ctrl1 := 0x00#8, ctrl2 := 0x00#8, vblank := false, sprite0Hit := false,
                         spriteOverflow := false, oamAddr := 0x00#8, vramAddr := 0x0000#16, w := false,
                         scrollX := 0x00#8, scrollY := 0x00#8, readBuffer := 0x00#8, dot := 0, line := 0 } ∧
    t.apu = { t.apu with pulse1 := pulse, pulse2 := pulse, triCtrl := 0x00#8, triPeriod := 0#11,
                         triLength := 0x00#8, triEnabled := false, noiseEnabled := false, acc := 0 } ∧
    t.pad = { strobe := false, shift := 0x00#8, index := 0#3 } ∧
    t.cart = s.cart ∧ t.cfg = s.cfg ∧ t.irqLine = s.irqLine ∧ t.padInput = s.padInput

/-- The invariants hold right after RESET. For every usable parameter set and well-formed cartridge, the state
after RESET has its memories and layers in canonical form, its counters in range, its disabled channels silent,
its character ROM intact, and its clocks in agreement; the default reset state is one of them. R61 gives the
zeros and R404 the agreement of the clocks. The canonical form is the model's inference (log 18); no additional
cycles between steps (log 7), the blank cartridge of the default reset state (log 2) and what a usable parameter
set is (logs 16 and 32) are the model's choices. (10_state.md section 9 (R61); 48_sync_dma_joypad.md section 1
(R404)) -/
def Obligations.InvariantsHoldAtReset : Prop :=
  (∀ (cfg : Config) (cart : Cartridge), cfg.wf = true → cart.wf = true →
    Inv (State.powerOn cfg cart) ∧ ClocksAgree (State.powerOn cfg cart)) ∧
  Inv State.reset ∧ ClocksAgree State.reset

/-- Every step keeps the machine's invariant. From every state that meets it, reachable or not, a step that
answers a next state keeps: every memory and both layers in canonical form and inside their sizes; dot at most
340 and line at most 261; the APU accumulator below the half-frame; every length at most 254 and zero while its
channel is disabled; the character memory equal to the character ROM if there is one; the four palette cells
that are never addressed zero; no additional cycles left over. So do a change of the inputs and RESET. The
canonical form and the unaddressed palette cells are the model's inference (log 18); no additional cycles left
over (log 7; R32 says that they do not live between steps) and what a usable parameter set is (logs 16 and 32)
are the model's choices. (10_state.md section 2 (R32); 10_state.md sections 3 to 6 (R34, R43, R44, R45, R48,
R50, R51); 20_memory.md section 3 (R91, R95)) -/
def Obligations.InvariantKeptByEveryStep : Prop :=
  ∀ s : State, Inv s →
    (∀ t, step s = .next t → Inv t) ∧ (∀ irq buttons, Inv (s.withInputs irq buttons)) ∧ Inv s.hostReset

/-- The PPU and APU clocks stay in agreement with the executed cycles. From every state in which the dot
position of the PPU is three times the executed cycles modulo the frame, and the APU accumulator is the executed
cycles modulo the half-frame, with the counters in range: every step that answers a next state keeps both,
whatever instruction it runs, with its page-crossing and DMA cycles, and whatever lines it crosses.
(48_sync_dma_joypad.md section 1 (R402, R404)) -/
def Obligations.ClocksAgreeAfterEveryStep : Prop :=
  ∀ s t : State, ClocksAgree s → step s = .next t → ClocksAgree t

/-- A line draws the first eight OAM entries on it, in index order, if sprites are enabled. Rendering line L
with sprites enabled: of the 64 OAM entries, those whose Y is L, at most the first eight of them in index order,
are drawn with their tile, attributes and X; a cell of the sprite layer ends with the pixel of the last of these
that is opaque there, and else keeps what it held. With sprites disabled the sprite layer is unchanged. The
exact-Y match and the gating of the pixels alone are the spec's decision D29, that the later entry shows its
decisions D29 and D31, the plane order D30 (log 26). (46_ppu_rendering_timing.md section 3 (R340, R341, R346,
R347); 46_ppu_rendering_timing.md section 2 (R330, R331); 45_ppu_registers.md section 2 (R278)) -/
def Obligations.SpriteLineDrawsTheFirstEight : Prop :=
  ∀ (cart : Cartridge) (u : Ppu) (l : Nat),
    let t := renderLine cart u l
    let drawn := ((List.range 64).filter fun i => (u.oam.read (4 * i)).toNat == l).take 8
    (u.ctrl2.getLsbD 4 = false → t.spriteLayer = u.spriteLayer) ∧
    (u.ctrl2.getLsbD 4 = true → ∀ y z, y < 240 → z < 256 →
      t.spriteLayer.cell y z = drawn.foldl (fun cell i =>
        (spritePixelAt cart u l (u.oam.read (4 * i + 1)) (u.oam.read (4 * i + 2)) (u.oam.read (4 * i + 3)) y z).or
          cell) (u.spriteLayer.cell y z))
end

