-- ==== Sys2Proof/Laws/Decode.lean ====
section
/-! SUPPORT. The byte-order helpers undo each other, and what the decoder does with each number of operand bytes. -/

namespace Sys2Proof.Machine

theorem mkWord_toNat (h l : Byte) : (mkWord h l).toNat = 256 * h.toNat + l.toNat := by
  have hl : l.toNat < 2 ^ 8 := l.isLt
  simp only [mkWord, BitVec.toNat_append]
  rw [← Nat.shiftLeft_add_eq_or_of_lt hl, Nat.shiftLeft_eq]
  omega

theorem hiByte_toNat (w : Word) : (hiByte w).toNat = w.toNat / 256 := by
  have := w.isLt
  simp only [hiByte, BitVec.extractLsb'_toNat, Nat.shiftRight_eq_div_pow]
  omega

theorem loByte_toNat (w : Word) : (loByte w).toNat = w.toNat % 256 := by
  simp only [loByte, BitVec.extractLsb'_toNat, Nat.shiftRight_zero]

@[simp] theorem mkWord_hiByte_loByte (w : Word) : mkWord (hiByte w) (loByte w) = w := by
  apply BitVec.eq_of_toNat_eq
  rw [mkWord_toNat, hiByte_toNat, loByte_toNat]
  omega

@[simp] theorem hiByte_mkWord (h l : Byte) : hiByte (mkWord h l) = h := by
  have := l.isLt
  apply BitVec.eq_of_toNat_eq
  rw [hiByte_toNat, mkWord_toNat]
  omega

@[simp] theorem loByte_mkWord (h l : Byte) : loByte (mkWord h l) = l := by
  have := l.isLt
  apply BitVec.eq_of_toNat_eq
  rw [loByte_toNat, mkWord_toNat]
  omega

end Sys2Proof.Machine

namespace Sys2Proof

open Machine

theorem decode_f1 {op : Byte} {i : Instr} (h : opcodeShape op = some (.f1 i)) (rest : List Byte) :
    decode (op :: rest) = .ok i rest := by simp only [decode, h]

theorem decode_f2 {op : Byte} {mk : Byte → Instr} (h : opcodeShape op = some (.f2 mk)) (b : Byte) (rest : List Byte) :
    decode (op :: b :: rest) = .ok (mk b) rest := by simp only [decode, h]

theorem decode_f3 {op : Byte} {mk : Word → Instr} (h : opcodeShape op = some (.f3 mk)) (w : Word) (rest : List Byte) :
    decode (op :: loByte w :: hiByte w :: rest) = .ok (mk w) rest := by
  simp only [decode, h, mkWord_hiByte_loByte]

theorem decode_illegal {op : Byte} (h : opcodeShape op = none) (rest : List Byte) :
    decode (op :: rest) = .illegalOpcode op := by simp only [decode, h]

end Sys2Proof
end

