-- ==== Sys2Proof/Laws/Sparse.lean ====
section
/-! SUPPORT. Laws of sparse lists, byte memories and layers: read after write, and that every operation keeps the
canonical form. -/

namespace Sys2Proof.Machine

variable {α : Type}

@[simp] theorem sparseFind_insert_same (l : List (Nat × α)) (a : Nat) (v : α) :
    sparseFind (sparseInsert l a v) a = some v := by
  induction l with
  | nil => simp [sparseInsert, sparseFind]
  | cons c t ih =>
    obtain ⟨k, u⟩ := c
    simp only [sparseInsert]
    split
    · simp [sparseFind]
    · split
      · simp [sparseFind]
      · simp [sparseFind, *]

theorem sparseFind_insert_other (l : List (Nat × α)) {a b : Nat} (v : α) (h : b ≠ a) :
    sparseFind (sparseInsert l a v) b = sparseFind l b := by
  induction l with
  | nil => simp [sparseInsert, sparseFind, h]
  | cons c t ih =>
    obtain ⟨k, u⟩ := c
    simp only [sparseInsert]
    split
    · simp [sparseFind, h]
    · split
      · subst_vars; simp [sparseFind, h]
      · simp only [sparseFind, ih]

@[simp] theorem sparseFind_erase_same (l : List (Nat × α)) (a : Nat) : sparseFind (sparseErase l a) a = none := by
  induction l with
  | nil => rfl
  | cons c t ih =>
    obtain ⟨k, u⟩ := c
    by_cases hk : k = a
    · simpa [sparseErase, hk] using ih
    · have : ¬a = k := fun e => hk e.symm
      simpa [sparseErase, hk, sparseFind, this] using ih

theorem sparseFind_erase_other (l : List (Nat × α)) {a b : Nat} (h : b ≠ a) :
    sparseFind (sparseErase l a) b = sparseFind l b := by
  induction l with
  | nil => rfl
  | cons c t ih =>
    obtain ⟨k, u⟩ := c
    by_cases hk : k = a
    · subst hk; simpa [sparseErase, sparseFind, h] using ih
    · have e : sparseErase ((k, u) :: t) a = (k, u) :: sparseErase t a := by simp [sparseErase, hk]
      rw [e]; simp only [sparseFind, ih]

/-- A read after a write to the same address gives the value written. -/
@[simp] theorem Memory.read_write_same (m : Memory) (a : Nat) (v : Byte) : (m.write a v).read a = v := by
  by_cases h : v = unlistedByte <;> simp [Memory.read, Memory.write, h]

/-- A write leaves every other address alone. -/
theorem Memory.read_write_other (m : Memory) {a b : Nat} (v : Byte) (h : b ≠ a) :
    (m.write a v).read b = m.read b := by
  by_cases e : v = unlistedByte <;>
    simp [Memory.read, Memory.write, e, sparseFind_erase_other _ h, sparseFind_insert_other _ _ h]

/-- What a write does to a read, in one line. -/
theorem Memory.read_write (m : Memory) (a b : Nat) (v : Byte) :
    (m.write a v).read b = if b = a then v else m.read b := by
  by_cases h : b = a
  · subst h; simp
  · simp [h, Memory.read_write_other]

@[simp] theorem Memory.read_nil (a : Nat) : Memory.read [] a = 0x00#8 := rfl

theorem sortedFrom_mono {l : List (Nat × α)} {b b' : Nat} (h : b' ≤ b) (hs : sortedFrom b l = true) :
    sortedFrom b' l = true := by
  cases l with
  | nil => rfl
  | cons c t => simp [sortedFrom] at hs ⊢; exact ⟨by omega, hs.2⟩

theorem sortedFrom_insert {l : List (Nat × α)} {b a : Nat} (v : α) (hb : b ≤ a) (hs : sortedFrom b l = true) :
    sortedFrom b (sparseInsert l a v) = true := by
  induction l generalizing b with
  | nil => simp [sparseInsert, sortedFrom, hb]
  | cons c t ih =>
    obtain ⟨k, u⟩ := c
    simp [sortedFrom] at hs
    simp only [sparseInsert]
    split
    · simp [sortedFrom, hb, hs]; omega
    · split
      · subst_vars; simp [sortedFrom, hs]
      · simp [sortedFrom, hs, ih (b := k + 1) (by omega) hs.2]

theorem sortedFrom_filter (p : Nat × α → Bool) {l : List (Nat × α)} {b : Nat} (hs : sortedFrom b l = true) :
    sortedFrom b (l.filter p) = true := by
  induction l generalizing b with
  | nil => rfl
  | cons c t ih =>
    obtain ⟨k, u⟩ := c
    simp [sortedFrom] at hs
    by_cases hp : p (k, u) = true
    · simp [List.filter_cons_of_pos hp, sortedFrom, hs, ih hs.2]
    · rw [List.filter_cons_of_neg hp]; exact sortedFrom_mono (by omega) (ih hs.2)

theorem sparseInsert_all {l : List (Nat × α)} {p : Nat × α → Bool} {a : Nat} {v : α} (hv : p (a, v) = true)
    (hl : l.all p = true) : (sparseInsert l a v).all p = true := by
  induction l with
  | nil => simp [sparseInsert, hv]
  | cons c t ih =>
    obtain ⟨k, u⟩ := c
    simp only [List.all_cons, Bool.and_eq_true] at hl
    simp only [sparseInsert]
    split
    · simp [hv, hl.1, hl.2]
    · split
      · simp [hv, hl.2]
      · simp [hl.1, ih hl.2]

theorem filter_all {l : List (Nat × α)} {p q : Nat × α → Bool} (hl : l.all p = true) :
    (l.filter q).all p = true := by
  simp only [List.all_eq_true, List.mem_filter] at hl ⊢
  exact fun x hx => hl x hx.1

/-- A write inside a memory's size keeps its canonical form. -/
theorem Memory.write_wf {size : Nat} {m : Memory} {a : Nat} (v : Byte) (ha : a < size) (h : m.wf size = true) :
    (m.write a v).wf size = true := by
  simp only [Memory.wf, Bool.and_eq_true] at h ⊢
  by_cases e : v = unlistedByte
  · simp only [Memory.write, e, if_true]
    exact ⟨sortedFrom_filter _ h.1, filter_all h.2⟩
  · simp only [Memory.write, e, if_false]
    exact ⟨sortedFrom_insert _ (Nat.zero_le _) h.1, sparseInsert_all (by simp [ha, e]) h.2⟩

@[simp] theorem Memory.wf_nil (size : Nat) : Memory.wf size [] = true := rfl

@[simp] theorem Layer.wf_nil : Layer.wf ([] : Layer α) = true := rfl

/-- Putting a cell inside the raster keeps a layer's canonical form. -/
theorem Layer.insert_wf {l : Layer α} {k : Nat} (v : α) (hk : k < layerCells) (h : l.wf = true) :
    Layer.wf (sparseInsert l k v) = true := by
  simp only [Layer.wf, Bool.and_eq_true] at h ⊢
  exact ⟨sortedFrom_insert _ (Nat.zero_le _) h.1, sparseInsert_all (by simpa using hk) h.2⟩

theorem sortedFrom_append {l r : List (Nat × α)} {b m : Nat} (hbm : b ≤ m) (hl : sortedFrom b l = true)
    (hb : l.all (fun c => decide (c.1 < m)) = true) (hr : sortedFrom m r = true) :
    sortedFrom b (l ++ r) = true := by
  induction l generalizing b with
  | nil => exact sortedFrom_mono hbm hr
  | cons c t ih =>
    obtain ⟨k, u⟩ := c
    simp [sortedFrom] at hl hb
    simp only [List.cons_append, sortedFrom, Bool.and_eq_true, decide_eq_true_eq]
    exact ⟨hl.1, ih (by omega) hl.2 (by simpa using hb.2)⟩

theorem sortedFrom_filter_ge {l : List (Nat × α)} {b m : Nat} (hs : sortedFrom b l = true) :
    sortedFrom m (l.filter fun c => decide (m ≤ c.1)) = true := by
  induction l generalizing b with
  | nil => rfl
  | cons c t ih =>
    obtain ⟨k, u⟩ := c
    simp [sortedFrom] at hs
    by_cases hp : m ≤ k
    · simp only [List.filter_cons, hp, decide_true, if_true, sortedFrom, Bool.true_and]
      exact sortedFrom_filter _ hs.2
    · simp only [List.filter_cons, hp, decide_false]
      exact ih hs.2

theorem sortedFrom_run (f : Nat → α) (lo : Nat) : ∀ n s, sortedFrom (lo + s)
    ((List.range' s n).map fun k => (lo + k, f (lo + k))) = true := by
  intro n
  induction n with
  | zero => intro s; rfl
  | succ n ih => intro s; simp [List.range'_succ, sortedFrom]; exact ih (s + 1)

/-- Overwriting a run of cells inside the raster keeps a layer's canonical form. -/
theorem Layer.replaceRun_wf {l : Layer α} {lo n : Nat} (f : Nat → α) (hn : lo + n ≤ layerCells) (h : l.wf = true) :
    (l.replaceRun lo n f).wf = true := by
  simp only [Layer.wf, Bool.and_eq_true] at h ⊢
  have hrun := sortedFrom_run f lo n 0
  rw [← List.range_eq_range', Nat.add_zero] at hrun
  constructor
  · simp only [Layer.replaceRun]
    refine sortedFrom_append (m := lo + n) (by omega) (sortedFrom_append (m := lo) (by omega)
      (sortedFrom_filter _ h.1) ?_ hrun) ?_ (sortedFrom_filter_ge h.1)
    · simp [List.all_eq_true]
    · simp only [List.all_append, Bool.and_eq_true]
      constructor
      · simp only [List.all_eq_true, List.mem_filter, decide_eq_true_eq]
        exact fun x hx => by omega
      · simp
  · simp only [Layer.replaceRun, List.all_append, Bool.and_eq_true]
    refine ⟨⟨filter_all h.2, ?_⟩, filter_all h.2⟩
    simp only [List.all_eq_true, List.mem_map, List.mem_range, decide_eq_true_eq]
    rintro x ⟨k, hk, rfl⟩
    show lo + k < layerCells
    omega

theorem sparseFind_of_lt {l : List (Nat × α)} {b a : Nat} (hs : sortedFrom b l = true) (h : a < b) :
    sparseFind l a = none := by
  induction l generalizing b with
  | nil => rfl
  | cons c t ih =>
    obtain ⟨k, u⟩ := c
    simp [sortedFrom] at hs
    have : ¬a = k := by omega
    simp [sparseFind, this, ih hs.2 (by omega)]

theorem sorted_ext {l m : List (Nat × α)} {b : Nat} (hl : sortedFrom b l = true) (hm : sortedFrom b m = true)
    (h : ∀ a, sparseFind l a = sparseFind m a) : l = m := by
  induction l generalizing b m with
  | nil =>
    cases m with
    | nil => rfl
    | cons c t => obtain ⟨k, u⟩ := c; have := h k; simp [sparseFind] at this
  | cons c t ih =>
    obtain ⟨k, u⟩ := c
    cases m with
    | nil => have := h k; simp [sparseFind] at this
    | cons d r =>
      obtain ⟨j, v⟩ := d
      simp [sortedFrom] at hl hm
      have hkj : k = j := by
        rcases Nat.lt_trichotomy k j with h1 | h1 | h1
        · have := h k
          have e : sparseFind r k = none := sparseFind_of_lt hm.2 (by omega)
          simp [sparseFind, e, Nat.ne_of_lt h1] at this
        · exact h1
        · have := h j
          have e : sparseFind t j = none := sparseFind_of_lt hl.2 (by omega)
          simp [sparseFind, e, Nat.ne_of_lt h1] at this
      subst hkj
      have huv : u = v := by have := h k; simpa [sparseFind] using this
      subst huv
      congr 1
      refine ih hl.2 hm.2 fun a => ?_
      by_cases ha : a = k
      · subst ha; rw [sparseFind_of_lt hl.2 (by omega), sparseFind_of_lt hm.2 (by omega)]
      · have := h a; simpa [sparseFind, ha] using this

theorem sparseFind_eq_read {m : Memory} {size : Nat} (h : m.wf size = true) (a : Nat) :
    sparseFind m a = if m.read a = unlistedByte then none else some (m.read a) := by
  have hne : ∀ (l : Memory), (l.all fun c => c.2 != unlistedByte) = true →
      ∀ v, sparseFind l a = some v → v ≠ unlistedByte := by
    intro l
    induction l with
    | nil => intro _ v hv; cases hv
    | cons c t ih =>
      obtain ⟨k, u⟩ := c
      intro hl v hv
      simp only [List.all_cons, Bool.and_eq_true] at hl
      by_cases hk : a = k
      · simp only [sparseFind, hk, if_true, Option.some.injEq] at hv
        exact hv ▸ by simpa using hl.1
      · exact ih hl.2 v (by simpa [sparseFind, hk] using hv)
  have hall : (m.all fun c => c.2 != unlistedByte) = true := by
    simp only [Memory.wf, Bool.and_eq_true, List.all_eq_true] at h ⊢
    exact fun c hc => (h.2 c hc).2
  cases e : sparseFind m a with
  | none => simp [Memory.read, e]
  | some v => simp [Memory.read, e, hne m hall v e]

/-- Two memories in canonical form that read alike everywhere are the same list. -/
theorem Memory.ext_read {m n : Memory} {size : Nat} (hm : m.wf size = true) (hn : n.wf size = true)
    (h : ∀ a, m.read a = n.read a) : m = n := by
  have hs : ∀ (l : Memory), l.wf size = true → sortedFrom 0 l = true := fun l hl => by
    simp only [Memory.wf, Bool.and_eq_true] at hl; exact hl.1
  refine sorted_ext (hs m hm) (hs n hn) fun a => ?_
  rw [sparseFind_eq_read hm, sparseFind_eq_read hn, h a]

end Sys2Proof.Machine
end

