-- ==== Sys2Proof/Laws/State.lean ====
section
/-! SUPPORT. What each named update of the state leaves in each field: one lemma a field, true by rfl. -/

namespace Sys2Proof.Machine

section setZN
variable (p : Flags) (v : Byte)
@[simp] theorem Flags.setZN_n : (p.setZN v).n = v.getLsbD 7 := rfl
@[simp] theorem Flags.setZN_z : (p.setZN v).z = (v == 0x00#8) := rfl
@[simp] theorem Flags.setZN_v : (p.setZN v).v = p.v := rfl
@[simp] theorem Flags.setZN_b : (p.setZN v).b = p.b := rfl
@[simp] theorem Flags.setZN_d : (p.setZN v).d = p.d := rfl
@[simp] theorem Flags.setZN_i : (p.setZN v).i = p.i := rfl
@[simp] theorem Flags.setZN_c : (p.setZN v).c = p.c := rfl
end setZN

@[simp] theorem Flags.r_eq (p : Flags) : p.r = true := rfl

section unpack
variable (v : Byte)
@[simp] theorem Flags.unpack_n : (Flags.unpack v).n = v.getLsbD 7 := rfl
@[simp] theorem Flags.unpack_v : (Flags.unpack v).v = v.getLsbD 6 := rfl
@[simp] theorem Flags.unpack_b : (Flags.unpack v).b = v.getLsbD 4 := rfl
@[simp] theorem Flags.unpack_d : (Flags.unpack v).d = v.getLsbD 3 := rfl
@[simp] theorem Flags.unpack_i : (Flags.unpack v).i = v.getLsbD 2 := rfl
@[simp] theorem Flags.unpack_z : (Flags.unpack v).z = v.getLsbD 1 := rfl
@[simp] theorem Flags.unpack_c : (Flags.unpack v).c = v.getLsbD 0 := rfl
end unpack

section withInputs
variable (s : State) (irq : Bool) (b : Byte)
@[simp] theorem State.withInputs_irqLine : (s.withInputs irq b).irqLine = irq := rfl
@[simp] theorem State.withInputs_padInput : (s.withInputs irq b).padInput = b := rfl
@[simp] theorem State.withInputs_a : (s.withInputs irq b).a = s.a := rfl
@[simp] theorem State.withInputs_pc : (s.withInputs irq b).pc = s.pc := rfl
@[simp] theorem State.withInputs_p : (s.withInputs irq b).p = s.p := rfl
@[simp] theorem State.withInputs_ram : (s.withInputs irq b).ram = s.ram := rfl
@[simp] theorem State.withInputs_ppu : (s.withInputs irq b).ppu = s.ppu := rfl
@[simp] theorem State.withInputs_apu : (s.withInputs irq b).apu = s.apu := rfl
@[simp] theorem State.withInputs_pad : (s.withInputs irq b).pad = s.pad := rfl
@[simp] theorem State.withInputs_cart : (s.withInputs irq b).cart = s.cart := rfl
@[simp] theorem State.withInputs_cfg : (s.withInputs irq b).cfg = s.cfg := rfl
end withInputs

section putA
variable (s : State) (o : AluResult)
@[simp] theorem putA_a : (putA s o).a = o.value := rfl
@[simp] theorem putA_p : (putA s o).p = o.flags := rfl
@[simp] theorem putA_x : (putA s o).x = s.x := rfl
@[simp] theorem putA_y : (putA s o).y = s.y := rfl
@[simp] theorem putA_sp : (putA s o).sp = s.sp := rfl
@[simp] theorem putA_pc : (putA s o).pc = s.pc := rfl
@[simp] theorem putA_ram : (putA s o).ram = s.ram := rfl
@[simp] theorem putA_ppu : (putA s o).ppu = s.ppu := rfl
@[simp] theorem putA_apu : (putA s o).apu = s.apu := rfl
@[simp] theorem putA_pad : (putA s o).pad = s.pad := rfl
@[simp] theorem putA_cart : (putA s o).cart = s.cart := rfl
@[simp] theorem putA_cfg : (putA s o).cfg = s.cfg := rfl
end putA

section setPpu
variable (u : Ppu)
@[simp] theorem frameRestart_vblank : (frameRestart u).vblank = false := rfl
@[simp] theorem frameRestart_dot : (frameRestart u).dot = u.dot := rfl
@[simp] theorem frameRestart_line : (frameRestart u).line = 0 := rfl
@[simp] theorem frameRestart_sprite0Hit : (frameRestart u).sprite0Hit = false := rfl
@[simp] theorem frameRestart_spriteOverflow : (frameRestart u).spriteOverflow = false := rfl
@[simp] theorem frameRestart_spriteLayer : (frameRestart u).spriteLayer = [] := rfl
@[simp] theorem frameRestart_bgLayer : (frameRestart u).bgLayer = u.bgLayer := rfl
@[simp] theorem frameRestart_oam : (frameRestart u).oam = u.oam := rfl
end setPpu

section vblankEntry
variable (s : State)
@[simp] theorem vblankEntry_vblank : (vblankEntry s).ppu.vblank = true := rfl
@[simp] theorem vblankEntry_dot : (vblankEntry s).ppu.dot = s.ppu.dot := rfl
@[simp] theorem vblankEntry_line : (vblankEntry s).ppu.line = s.ppu.line := rfl
@[simp] theorem vblankEntry_frameReady : (vblankEntry s).frameReady = true := rfl
@[simp] theorem vblankEntry_nmiPending :
    (vblankEntry s).nmiPending = (s.nmiPending || s.ppu.nmiEnable) := rfl
@[simp] theorem vblankEntry_ram : (vblankEntry s).ram = s.ram := rfl
@[simp] theorem vblankEntry_cart : (vblankEntry s).cart = s.cart := rfl
@[simp] theorem vblankEntry_cfg : (vblankEntry s).cfg = s.cfg := rfl
end vblankEntry

end Sys2Proof.Machine
end

