-- ==== Sys2Proof/Laws/Bus.lean ====
section
/-! SUPPORT. What a bus read, a bus write, a push, a pull and an interrupt entry can do, each said once. -/

namespace Sys2Proof.Machine

/-! ### Bus reads -/

/-- A read of work RAM gives the byte and changes nothing (20_memory.md R72, R74). -/
theorem memRead_ram {a : Word} (h : a.toNat ≤ 0x1FFF) (s : State) :
    memRead a s = (s.ram.read (a.toNat % 0x0800), s) := by simp [memRead, h]

/-- A read of the ROM window gives the program byte and changes nothing (20_memory.md R72, R78). -/
theorem memRead_rom {a : Word} (h : 0x8000 ≤ a.toNat) (s : State) : memRead a s = (s.cart.prgByte a, s) := by
  have h1 : ¬a.toNat ≤ 0x1FFF := by omega
  have h2 : ¬a.toNat ≤ 0x3FFF := by omega
  have h3 : ¬a.toNat ≤ 0x401F := by omega
  have h4 : ¬a.toNat ≤ 0x7FFF := by omega
  simp [memRead, h1, h2, h3, h4]

/-- A read of an address in no window gives 0x00 and changes nothing (20_memory.md R77). -/
theorem memRead_unmapped {a : Word} (h : 0x4020 ≤ a.toNat) (h' : a.toNat ≤ 0x7FFF) (s : State) :
    memRead a s = (0x00#8, s) := by
  have h1 : ¬a.toNat ≤ 0x1FFF := by omega
  have h2 : ¬a.toNat ≤ 0x3FFF := by omega
  have h3 : ¬a.toNat ≤ 0x401F := by omega
  simp [memRead, h1, h2, h3, h']

/-- What a PPU register read can change: `vblank`, `w`, the read buffer and the VRAM address (20_memory.md R83). -/
theorem ppuRegRead_frame (cart : Cartridge) (u : Ppu) (n : Nat) :
    ∃ vb w rb va, (ppuRegRead cart u n).2 = { u with vblank := vb, w := w, readBuffer := rb, vramAddr := va } := by
  unfold ppuRegRead
  split
  · exact ⟨_, _, u.readBuffer, u.vramAddr, rfl⟩
  · exact ⟨u.vblank, u.w, u.readBuffer, u.vramAddr, rfl⟩
  · unfold ppuDataRead
    simp only
    split
    · exact ⟨u.vblank, u.w, _, _, rfl⟩
    · exact ⟨u.vblank, u.w, _, _, rfl⟩
  · exact ⟨u.vblank, u.w, u.readBuffer, u.vramAddr, rfl⟩

/-- What a bus read can change: the four PPU cells above, and the joypad port (20_memory.md R83). -/
theorem memRead_frame (a : Word) (s : State) :
    ∃ vb w rb va pad, (memRead a s).2 =
      { s with ppu := { s.ppu with vblank := vb, w := w, readBuffer := rb, vramAddr := va }, pad := pad } := by
  unfold memRead
  split
  · exact ⟨s.ppu.vblank, s.ppu.w, s.ppu.readBuffer, s.ppu.vramAddr, s.pad, rfl⟩
  · split
    · obtain ⟨vb, w, rb, va, h⟩ := ppuRegRead_frame s.cart s.ppu (a.toNat % 8)
      exact ⟨vb, w, rb, va, s.pad, by simp [h]⟩
    · split
      · unfold ioRead
        split
        · exact ⟨s.ppu.vblank, s.ppu.w, s.ppu.readBuffer, s.ppu.vramAddr, _, rfl⟩
        · exact ⟨s.ppu.vblank, s.ppu.w, s.ppu.readBuffer, s.ppu.vramAddr, s.pad, rfl⟩
      · split
        · exact ⟨s.ppu.vblank, s.ppu.w, s.ppu.readBuffer, s.ppu.vramAddr, s.pad, rfl⟩
        · exact ⟨s.ppu.vblank, s.ppu.w, s.ppu.readBuffer, s.ppu.vramAddr, s.pad, rfl⟩

section memRead
variable (a : Word) (s : State)
@[simp] theorem memRead_a : (memRead a s).2.a = s.a := by
  obtain ⟨_, _, _, _, _, h⟩ := memRead_frame a s; rw [h]
@[simp] theorem memRead_x : (memRead a s).2.x = s.x := by
  obtain ⟨_, _, _, _, _, h⟩ := memRead_frame a s; rw [h]
@[simp] theorem memRead_y : (memRead a s).2.y = s.y := by
  obtain ⟨_, _, _, _, _, h⟩ := memRead_frame a s; rw [h]
@[simp] theorem memRead_sp : (memRead a s).2.sp = s.sp := by
  obtain ⟨_, _, _, _, _, h⟩ := memRead_frame a s; rw [h]
@[simp] theorem memRead_pc : (memRead a s).2.pc = s.pc := by
  obtain ⟨_, _, _, _, _, h⟩ := memRead_frame a s; rw [h]
@[simp] theorem memRead_p : (memRead a s).2.p = s.p := by
  obtain ⟨_, _, _, _, _, h⟩ := memRead_frame a s; rw [h]
@[simp] theorem memRead_totalCycles : (memRead a s).2.totalCycles = s.totalCycles := by
  obtain ⟨_, _, _, _, _, h⟩ := memRead_frame a s; rw [h]
@[simp] theorem memRead_extra : (memRead a s).2.extra = s.extra := by
  obtain ⟨_, _, _, _, _, h⟩ := memRead_frame a s; rw [h]
@[simp] theorem memRead_nmiPending : (memRead a s).2.nmiPending = s.nmiPending := by
  obtain ⟨_, _, _, _, _, h⟩ := memRead_frame a s; rw [h]
@[simp] theorem memRead_state_ram : (memRead a s).2.ram = s.ram := by
  obtain ⟨_, _, _, _, _, h⟩ := memRead_frame a s; rw [h]
@[simp] theorem memRead_apu : (memRead a s).2.apu = s.apu := by
  obtain ⟨_, _, _, _, _, h⟩ := memRead_frame a s; rw [h]
@[simp] theorem memRead_irqLine : (memRead a s).2.irqLine = s.irqLine := by
  obtain ⟨_, _, _, _, _, h⟩ := memRead_frame a s; rw [h]
@[simp] theorem memRead_padInput : (memRead a s).2.padInput = s.padInput := by
  obtain ⟨_, _, _, _, _, h⟩ := memRead_frame a s; rw [h]
@[simp] theorem memRead_frameReady : (memRead a s).2.frameReady = s.frameReady := by
  obtain ⟨_, _, _, _, _, h⟩ := memRead_frame a s; rw [h]
@[simp] theorem memRead_cart : (memRead a s).2.cart = s.cart := by
  obtain ⟨_, _, _, _, _, h⟩ := memRead_frame a s; rw [h]
@[simp] theorem memRead_cfg : (memRead a s).2.cfg = s.cfg := by
  obtain ⟨_, _, _, _, _, h⟩ := memRead_frame a s; rw [h]
@[simp] theorem memRead_oam : (memRead a s).2.ppu.oam = s.ppu.oam := by
  obtain ⟨_, _, _, _, _, h⟩ := memRead_frame a s; rw [h]
@[simp] theorem memRead_ntRam : (memRead a s).2.ppu.ntRam = s.ppu.ntRam := by
  obtain ⟨_, _, _, _, _, h⟩ := memRead_frame a s; rw [h]
@[simp] theorem memRead_palette : (memRead a s).2.ppu.palette = s.ppu.palette := by
  obtain ⟨_, _, _, _, _, h⟩ := memRead_frame a s; rw [h]
@[simp] theorem memRead_chr : (memRead a s).2.ppu.chr = s.ppu.chr := by
  obtain ⟨_, _, _, _, _, h⟩ := memRead_frame a s; rw [h]
@[simp] theorem memRead_oamAddr : (memRead a s).2.ppu.oamAddr = s.ppu.oamAddr := by
  obtain ⟨_, _, _, _, _, h⟩ := memRead_frame a s; rw [h]
@[simp] theorem memRead_dot : (memRead a s).2.ppu.dot = s.ppu.dot := by
  obtain ⟨_, _, _, _, _, h⟩ := memRead_frame a s; rw [h]
@[simp] theorem memRead_line : (memRead a s).2.ppu.line = s.ppu.line := by
  obtain ⟨_, _, _, _, _, h⟩ := memRead_frame a s; rw [h]
@[simp] theorem memRead_bgLayer : (memRead a s).2.ppu.bgLayer = s.ppu.bgLayer := by
  obtain ⟨_, _, _, _, _, h⟩ := memRead_frame a s; rw [h]
@[simp] theorem memRead_spriteLayer : (memRead a s).2.ppu.spriteLayer = s.ppu.spriteLayer := by
  obtain ⟨_, _, _, _, _, h⟩ := memRead_frame a s; rw [h]
end memRead

/-! ### Bus writes -/

/-- A write of work RAM stores the byte (20_memory.md R73, R74). -/
theorem memWrite_ram {a : Word} (h : a.toNat ≤ 0x1FFF) (v : Byte) (s : State) :
    memWrite a v s = { s with ram := s.ram.write (a.toNat % 0x0800) v } := by simp [memWrite, h]

/-- A write of the IO window goes to the APU, but at the DMA trigger and the joypad (20_memory.md R73, R76). -/
theorem memWrite_apu {a : Word} (h0 : 0x4000 ≤ a.toNat) (h1 : a.toNat ≤ 0x401F) (hd : a ≠ 0x4014#16)
    (hj : a ≠ 0x4016#16) (v : Byte) (s : State) :
    memWrite a v s = { s with apu := apuWrite s.apu a.toNat v } := by
  have h2 : ¬a.toNat ≤ 0x1FFF := by omega
  have h3 : ¬a.toNat ≤ 0x3FFF := by omega
  simp [memWrite, ioWrite, h1, h2, h3, hd, hj]

/-- A write of the ROM window or of an address in no window changes nothing (20_memory.md R77, R78). -/
theorem memWrite_ignored {a : Word} (h : 0x4020 ≤ a.toNat) (v : Byte) (s : State) : memWrite a v s = s := by
  have h1 : ¬a.toNat ≤ 0x1FFF := by omega
  have h2 : ¬a.toNat ≤ 0x3FFF := by omega
  have h3 : ¬a.toNat ≤ 0x401F := by omega
  simp [memWrite, h1, h2, h3]

/-- What the copy loop of OAM DMA can change: OAM, and what its bus reads change. -/
theorem oamDmaLoop_frame (page : Byte) (l : List Nat) (s : State) :
    ∃ vb w rb va pad oam, oamDmaLoop page l s =
      { s with ppu := { s.ppu with vblank := vb, w := w, readBuffer := rb, vramAddr := va, oam := oam },
               pad := pad } := by
  induction l generalizing s with
  | nil => exact ⟨s.ppu.vblank, s.ppu.w, s.ppu.readBuffer, s.ppu.vramAddr, s.pad, s.ppu.oam, rfl⟩
  | cons i rest ih =>
    obtain ⟨_, _, _, _, _, h⟩ := memRead_frame (mkWord page (BitVec.ofNat 8 i)) s
    simp only [oamDmaLoop, h]
    obtain ⟨vb, w, rb, va, pad, oam, h'⟩ := ih
      { s with ppu := { s.ppu with vblank := _, w := _, readBuffer := _, vramAddr := _, oam := _ }, pad := _ }
    exact ⟨vb, w, rb, va, pad, oam, h'⟩

/-- What OAM DMA can change: the above and `extra`, which grows by the penalty (48_sync_dma_joypad.md R410, R412). -/
theorem oamDma_frame (page : Byte) (s : State) :
    ∃ vb w rb va pad oam, oamDma page s =
      { s with ppu := { s.ppu with vblank := vb, w := w, readBuffer := rb, vramAddr := va, oam := oam },
               pad := pad, extra := s.extra + s.cfg.dmaPenalty } := by
  obtain ⟨vb, w, rb, va, pad, oam, h⟩ := oamDmaLoop_frame page (List.range 256) s
  exact ⟨vb, w, rb, va, pad, oam, by simp [oamDma, h]⟩

/-- What a PPU register write can change: everything of the PPU but the status flags, the read buffer, the counters
and the layers (45_ppu_registers.md R273). -/
theorem ppuRegWrite_frame (cart : Cartridge) (u : Ppu) (n : Nat) (v : Byte) :
    ∃ c1 c2 oa va w sx sy nt pal chr oam, ppuRegWrite cart u n v =
      { u with ctrl1 := c1, ctrl2 := c2, oamAddr := oa, vramAddr := va, w := w, scrollX := sx, scrollY := sy,
               ntRam := nt, palette := pal, chr := chr, oam := oam } := by
  have same : ∃ c1 c2 oa va w sx sy nt pal chr oam, u =
      { u with ctrl1 := c1, ctrl2 := c2, oamAddr := oa, vramAddr := va, w := w, scrollX := sx, scrollY := sy,
               ntRam := nt, palette := pal, chr := chr, oam := oam } :=
    ⟨u.ctrl1, u.ctrl2, u.oamAddr, u.vramAddr, u.w, u.scrollX, u.scrollY, u.ntRam, u.palette, u.chr, u.oam, rfl⟩
  unfold ppuRegWrite
  split
  · exact ⟨v, u.ctrl2, u.oamAddr, u.vramAddr, u.w, u.scrollX, u.scrollY, u.ntRam, u.palette, u.chr, u.oam, rfl⟩
  · exact ⟨u.ctrl1, v, u.oamAddr, u.vramAddr, u.w, u.scrollX, u.scrollY, u.ntRam, u.palette, u.chr, u.oam, rfl⟩
  · exact ⟨u.ctrl1, u.ctrl2, v, u.vramAddr, u.w, u.scrollX, u.scrollY, u.ntRam, u.palette, u.chr, u.oam, rfl⟩
  · exact ⟨u.ctrl1, u.ctrl2, _, u.vramAddr, u.w, u.scrollX, u.scrollY, u.ntRam, u.palette, u.chr, _, rfl⟩
  · unfold ppuScrollWrite
    split
    · exact ⟨u.ctrl1, u.ctrl2, u.oamAddr, u.vramAddr, _, u.scrollX, _, u.ntRam, u.palette, u.chr, u.oam, rfl⟩
    · exact ⟨u.ctrl1, u.ctrl2, u.oamAddr, u.vramAddr, _, _, u.scrollY, u.ntRam, u.palette, u.chr, u.oam, rfl⟩
  · unfold ppuAddrWrite
    split
    · exact ⟨u.ctrl1, u.ctrl2, u.oamAddr, _, _, u.scrollX, u.scrollY, u.ntRam, u.palette, u.chr, u.oam, rfl⟩
    · exact ⟨u.ctrl1, u.ctrl2, u.oamAddr, _, _, u.scrollX, u.scrollY, u.ntRam, u.palette, u.chr, u.oam, rfl⟩
  · unfold ppuDataWrite ppuWrite
    simp only
    split
    · split
      · exact ⟨u.ctrl1, u.ctrl2, u.oamAddr, _, u.w, u.scrollX, u.scrollY, u.ntRam, u.palette, _, u.oam, rfl⟩
      · exact ⟨u.ctrl1, u.ctrl2, u.oamAddr, _, u.w, u.scrollX, u.scrollY, u.ntRam, u.palette, u.chr, u.oam, rfl⟩
    · split
      · exact ⟨u.ctrl1, u.ctrl2, u.oamAddr, _, u.w, u.scrollX, u.scrollY, _, u.palette, u.chr, u.oam, rfl⟩
      · exact ⟨u.ctrl1, u.ctrl2, u.oamAddr, _, u.w, u.scrollX, u.scrollY, u.ntRam, _, u.chr, u.oam, rfl⟩
  · exact same

/-- The PPU counters and layers stand still in a bus write: device time stands still inside a step (20_memory.md R101). -/
structure SameCpu (s t : State) : Prop where
  a : t.a = s.a
  x : t.x = s.x
  y : t.y = s.y
  sp : t.sp = s.sp
  pc : t.pc = s.pc
  p : t.p = s.p
  totalCycles : t.totalCycles = s.totalCycles
  nmiPending : t.nmiPending = s.nmiPending
  irqLine : t.irqLine = s.irqLine
  padInput : t.padInput = s.padInput
  frameReady : t.frameReady = s.frameReady
  cart : t.cart = s.cart
  cfg : t.cfg = s.cfg
  dot : t.ppu.dot = s.ppu.dot
  line : t.ppu.line = s.ppu.line
  bgLayer : t.ppu.bgLayer = s.ppu.bgLayer
  spriteLayer : t.ppu.spriteLayer = s.ppu.spriteLayer
  acc : t.apu.acc = s.apu.acc

theorem apuWrite_acc (u : Apu) (a : Nat) (v : Byte) : (apuWrite u a v).acc = u.acc := by
  unfold apuWrite apuEnableWrite; repeat' split
  all_goals rfl

/-- A bus write leaves the CPU, the inputs, the configuration, the counters and the layers alone. -/
theorem memWrite_sameCpu (a : Word) (v : Byte) (s : State) : SameCpu s (memWrite a v s) := by
  unfold memWrite
  split
  · constructor <;> rfl
  · split
    · obtain ⟨_, _, _, _, _, _, _, _, _, _, _, h⟩ := ppuRegWrite_frame s.cart s.ppu (a.toNat % 8) v
      constructor <;> simp [h]
    · split
      · unfold ioWrite
        split
        · obtain ⟨_, _, _, _, _, _, h⟩ := oamDma_frame v s
          constructor <;> simp [h]
        · split
          · constructor <;> rfl
          · constructor <;> first | rfl | exact apuWrite_acc ..
      · constructor <;> rfl

section memWrite
variable (a : Word) (v : Byte) (s : State)
@[simp] theorem memWrite_a : (memWrite a v s).a = s.a := (memWrite_sameCpu a v s).a
@[simp] theorem memWrite_x : (memWrite a v s).x = s.x := (memWrite_sameCpu a v s).x
@[simp] theorem memWrite_y : (memWrite a v s).y = s.y := (memWrite_sameCpu a v s).y
@[simp] theorem memWrite_sp : (memWrite a v s).sp = s.sp := (memWrite_sameCpu a v s).sp
@[simp] theorem memWrite_pc : (memWrite a v s).pc = s.pc := (memWrite_sameCpu a v s).pc
@[simp] theorem memWrite_p : (memWrite a v s).p = s.p := (memWrite_sameCpu a v s).p
@[simp] theorem memWrite_totalCycles : (memWrite a v s).totalCycles = s.totalCycles := (memWrite_sameCpu a v s).totalCycles
@[simp] theorem memWrite_nmiPending : (memWrite a v s).nmiPending = s.nmiPending := (memWrite_sameCpu a v s).nmiPending
@[simp] theorem memWrite_irqLine : (memWrite a v s).irqLine = s.irqLine := (memWrite_sameCpu a v s).irqLine
@[simp] theorem memWrite_padInput : (memWrite a v s).padInput = s.padInput := (memWrite_sameCpu a v s).padInput
@[simp] theorem memWrite_frameReady : (memWrite a v s).frameReady = s.frameReady := (memWrite_sameCpu a v s).frameReady
@[simp] theorem memWrite_cart : (memWrite a v s).cart = s.cart := (memWrite_sameCpu a v s).cart
@[simp] theorem memWrite_cfg : (memWrite a v s).cfg = s.cfg := (memWrite_sameCpu a v s).cfg
@[simp] theorem memWrite_dot : (memWrite a v s).ppu.dot = s.ppu.dot := (memWrite_sameCpu a v s).dot
@[simp] theorem memWrite_line : (memWrite a v s).ppu.line = s.ppu.line := (memWrite_sameCpu a v s).line
@[simp] theorem memWrite_bgLayer : (memWrite a v s).ppu.bgLayer = s.ppu.bgLayer := (memWrite_sameCpu a v s).bgLayer
@[simp] theorem memWrite_spriteLayer : (memWrite a v s).ppu.spriteLayer = s.ppu.spriteLayer := (memWrite_sameCpu a v s).spriteLayer
@[simp] theorem memWrite_acc : (memWrite a v s).apu.acc = s.apu.acc := (memWrite_sameCpu a v s).acc
end memWrite

/-- What a bus write can do to work RAM (20_memory.md R73). -/
theorem memWrite_state_ram (a : Word) (v : Byte) (s : State) :
    (memWrite a v s).ram = if a.toNat ≤ 0x1FFF then s.ram.write (a.toNat % 0x0800) v else s.ram := by
  unfold memWrite
  split
  · rfl
  · split
    · rfl
    · split
      · unfold ioWrite
        split
        · obtain ⟨_, _, _, _, _, _, h⟩ := oamDma_frame v s
          simp [h]
        · split <;> rfl
      · rfl

/-- `extra` grows in a bus write only by an OAM DMA (48_sync_dma_joypad.md R412). -/
theorem memWrite_extra (a : Word) (v : Byte) (s : State) :
    (memWrite a v s).extra = s.extra + if a = 0x4014#16 then s.cfg.dmaPenalty else 0 := by
  unfold memWrite
  have h14 : ∀ {P : Prop}, a = 0x4014#16 → (a.toNat ≤ 0x1FFF ∨ (¬a.toNat ≤ 0x401F) ∨ a.toNat ≤ 0x3FFF) → P := by
    rintro P rfl h; exact absurd h (by decide)
  split
  · next h => rw [if_neg fun e => h14 e (.inl h)]; rfl
  · split
    · next h => rw [if_neg fun e => h14 e (.inr (.inr h))]; rfl
    · split
      · unfold ioWrite
        split
        · next h =>
          obtain ⟨_, _, _, _, _, _, h'⟩ := oamDma_frame v s
          simp [h']
        · split <;> simp
      · next h => rw [if_neg fun e => h14 e (.inr (.inl h))]; rfl

/-! ### The stack -/

theorem stackAddr_toNat (sp : Byte) : (stackAddr sp).toNat = 0x0100 + sp.toNat := by
  rw [stackAddr, mkWord_toNat]; rfl

theorem stackAddr_mod (sp : Byte) : (stackAddr sp).toNat % 0x0800 = 0x0100 + sp.toNat := by
  have := sp.isLt; rw [stackAddr_toNat]; omega

theorem stackAddr_le (sp : Byte) : (stackAddr sp).toNat ≤ 0x1FFF := by
  have := sp.isLt; rw [stackAddr_toNat]; omega

/-- A push stores one byte in the stack page and takes one from SP (10_state.md R27). -/
theorem push_eq (v : Byte) (s : State) :
    push v s = { s with ram := s.ram.write (0x0100 + s.sp.toNat) v, sp := s.sp - 1#8 } := by
  simp only [push, memWrite_ram (stackAddr_le s.sp), stackAddr_mod]

/-- A pull adds one to SP and reads one byte of the stack page (10_state.md R27). -/
theorem pull_eq (s : State) :
    pull s = (s.ram.read (0x0100 + (s.sp + 1#8).toNat), { s with sp := s.sp + 1#8 }) := by
  simp only [pull, memRead_ram (stackAddr_le _), stackAddr_mod]

/-- `Interrupt(kind)` in one line: three bytes of the stack page, SP, B, I and PC (60_exceptions.md R445). -/
theorem interrupt_eq (k : InterruptKind) (s : State) :
    interrupt k s =
      { s with
        ram := ((s.ram.write (0x0100 + s.sp.toNat) (hiByte s.pc)).write (0x0100 + (s.sp - 1#8).toNat)
          (loByte s.pc)).write (0x0100 + (s.sp - 1#8 - 1#8).toNat) (s.p.pack (decide (k = .brk)))
        sp := s.sp - 1#8 - 1#8 - 1#8
        p := { s.p with b := decide (k = .brk), i := true }
        pc := vectorWord s.cart k } := by
  have h0 : 0x8000 ≤ (interruptVector k).toNat := by cases k <;> decide
  have h1 : 0x8000 ≤ (interruptVector k + 1#16).toNat := by cases k <;> decide
  simp only [interrupt, push_eq, read16, memRead_rom h0, memRead_rom h1, vectorWord]
  rfl

/-- Return from interrupt in one line (44_stack_flags_system.md R263). -/
theorem returnFromInterrupt_eq (s : State) :
    returnFromInterrupt s =
      { s with
        p := Flags.unpack (s.ram.read (0x0100 + (s.sp + 1#8).toNat))
        pc := mkWord (s.ram.read (0x0100 + (s.sp + 1#8 + 1#8 + 1#8).toNat))
          (s.ram.read (0x0100 + (s.sp + 1#8 + 1#8).toNat))
        sp := s.sp + 1#8 + 1#8 + 1#8 } := by
  simp only [returnFromInterrupt, pull_eq]

end Sys2Proof.Machine
end

