-- ==== Sys2Proof/Laws/Operands.lean ====
section
/-! SUPPORT. What resolving an address form and accessing its operand can do. -/

namespace Sys2Proof.Machine

theorem zext16_toNat (b : Byte) : (zext16 b).toNat = b.toNat := by
  have := b.isLt
  simp [zext16]; omega

/-- A zero-page read is a work RAM read and changes nothing (30_encoding.md R137, R138). -/
theorem memRead_zeroPage (b : Byte) (s : State) : memRead (zext16 b) s = (s.ram.read b.toNat, s) := by
  have h := b.isLt
  have e : b.toNat % 0x0800 = b.toNat := Nat.mod_eq_of_lt (by omega)
  rw [memRead_ram (by rw [zext16_toNat]; omega), zext16_toNat, e]

theorem resolve_izx (z : Byte) (s : State) :
    resolve (.izx z) s = { ea := zeroPagePointer s (z + s.x), crossed := false, after := s } := by
  simp only [resolve, memRead_zeroPage, zeroPagePointer]

theorem resolve_izy (z : Byte) (s : State) :
    resolve (.izy z) s =
      { ea := zeroPagePointer s z + zext16 s.y,
        crossed := pageCrossed (zeroPagePointer s z) (zeroPagePointer s z + zext16 s.y), after := s } := by
  simp only [resolve, memRead_zeroPage, zeroPagePointer]

/-- Only `JMP (ind)` can change the state while it resolves its operand. -/
theorem resolve_after {f : AddrForm} (h : f.mode ≠ .ind) (s : State) : (resolve f s).after = s := by
  cases f <;> first | rfl | exact absurd rfl h | exact congrArg _ (resolve_izx ..) | exact congrArg _ (resolve_izy ..)

/-- What resolving can change is what two bus reads can. -/
theorem resolve_frame (f : AddrForm) (s : State) :
    ∃ vb w rb va pad, (resolve f s).after =
      { s with ppu := { s.ppu with vblank := vb, w := w, readBuffer := rb, vramAddr := va }, pad := pad } := by
  by_cases h : f.mode = .ind
  · cases f <;> try cases h
    rename_i w
    obtain ⟨_, _, _, _, _, h1⟩ := memRead_frame w s
    obtain ⟨vb, w', rb, va, pad, h2⟩ :=
      memRead_frame (mkWord (hiByte w) (loByte w + 1#8)) (memRead w s).2
    exact ⟨vb, w', rb, va, pad, h2.trans (by rw [h1])⟩
  · exact ⟨s.ppu.vblank, s.ppu.w, s.ppu.readBuffer, s.ppu.vramAddr, s.pad, resolve_after h s⟩

theorem chargeCrossing_eq {f : AddrForm} (h : f.mode ≠ .ind) (s : State) :
    chargeCrossing (resolve f s) = { s with extra := s.extra + crossingCost f s } := by
  simp only [chargeCrossing, resolve_after h, crossingCost]
  split <;> rfl

/-- A read instruction's operand: one bus read at the effective address, after the page-crossing charge. -/
theorem readMem_eq {f : AddrForm} (h : f.mode ≠ .ind) (s : State) :
    readMem f s = memRead (resolve f s).ea { s with extra := s.extra + crossingCost f s } := by
  simp only [readMem, chargeCrossing_eq h]

theorem chargeCrossing_frame (f : AddrForm) (s : State) :
    ∃ vb w rb va pad ex, chargeCrossing (resolve f s) =
      { s with ppu := { s.ppu with vblank := vb, w := w, readBuffer := rb, vramAddr := va }, pad := pad,
               extra := ex } := by
  obtain ⟨vb, w, rb, va, pad, h⟩ := resolve_frame f s
  unfold chargeCrossing
  split
  · exact ⟨vb, w, rb, va, pad, _, by rw [h]⟩
  · exact ⟨vb, w, rb, va, pad, s.extra, by rw [h]⟩

/-- What reading an operand can change: what bus reads can, and `extra`. -/
theorem readMem_frame (f : AddrForm) (s : State) :
    ∃ vb w rb va pad ex, (readMem f s).2 =
      { s with ppu := { s.ppu with vblank := vb, w := w, readBuffer := rb, vramAddr := va }, pad := pad,
               extra := ex } := by
  obtain ⟨_, _, _, _, _, ex, h⟩ := chargeCrossing_frame f s
  obtain ⟨vb, w, rb, va, pad, h'⟩ := memRead_frame (resolve f s).ea (chargeCrossing (resolve f s))
  exact ⟨vb, w, rb, va, pad, ex, h'.trans (by rw [h])⟩

/-- Storing to an operand's address is one bus write there (every form of a store but `ind`, which none has). -/
theorem storeMem_eq {f : AddrForm} (h : f.mode ≠ .ind) (v : Byte) (s : State) :
    storeMem f v s = memWrite (resolve f s).ea v s := by simp only [storeMem, resolve_after h]

/-- Read, modify, write of an operand's address. -/
theorem modifyMem_eq {f : AddrForm} (h : f.mode ≠ .ind) (g : Byte → Flags → AluResult) (s : State) :
    modifyMem f g s =
      { memWrite (resolve f s).ea (g (memRead (resolve f s).ea s).1 s.p).value (memRead (resolve f s).ea s).2 with
        p := (g (memRead (resolve f s).ea s).1 s.p).flags } := by
  simp only [modifyMem, resolve_after h, memRead_p]

/-- What reading an operand can change: what a bus read can, and `extra`. -/
theorem operandByte_frame (x : Operand) (s : State) :
    ∃ vb w rb va pad ex, (operandByte x s).2 =
      { s with ppu := { s.ppu with vblank := vb, w := w, readBuffer := rb, vramAddr := va }, pad := pad,
               extra := ex } := by
  cases x with
  | mem f =>
    obtain ⟨vb, w, rb, va, pad, h⟩ := memRead_frame (resolve f s).ea { s with extra := s.extra + crossingCost f s }
    exact ⟨vb, w, rb, va, pad, _, h⟩
  | _ => exact ⟨s.ppu.vblank, s.ppu.w, s.ppu.readBuffer, s.ppu.vramAddr, s.pad, s.extra, rfl⟩

section operandByte
variable (x : Operand) (s : State)
@[simp] theorem operandByte_a : (operandByte x s).2.a = s.a := by
  obtain ⟨_, _, _, _, _, _, h⟩ := operandByte_frame x s; rw [h]
@[simp] theorem operandByte_x : (operandByte x s).2.x = s.x := by
  obtain ⟨_, _, _, _, _, _, h⟩ := operandByte_frame x s; rw [h]
@[simp] theorem operandByte_y : (operandByte x s).2.y = s.y := by
  obtain ⟨_, _, _, _, _, _, h⟩ := operandByte_frame x s; rw [h]
@[simp] theorem operandByte_sp : (operandByte x s).2.sp = s.sp := by
  obtain ⟨_, _, _, _, _, _, h⟩ := operandByte_frame x s; rw [h]
@[simp] theorem operandByte_pc : (operandByte x s).2.pc = s.pc := by
  obtain ⟨_, _, _, _, _, _, h⟩ := operandByte_frame x s; rw [h]
@[simp] theorem operandByte_p : (operandByte x s).2.p = s.p := by
  obtain ⟨_, _, _, _, _, _, h⟩ := operandByte_frame x s; rw [h]
@[simp] theorem operandByte_totalCycles : (operandByte x s).2.totalCycles = s.totalCycles := by
  obtain ⟨_, _, _, _, _, _, h⟩ := operandByte_frame x s; rw [h]
@[simp] theorem operandByte_nmiPending : (operandByte x s).2.nmiPending = s.nmiPending := by
  obtain ⟨_, _, _, _, _, _, h⟩ := operandByte_frame x s; rw [h]
@[simp] theorem operandByte_ram : (operandByte x s).2.ram = s.ram := by
  obtain ⟨_, _, _, _, _, _, h⟩ := operandByte_frame x s; rw [h]
@[simp] theorem operandByte_apu : (operandByte x s).2.apu = s.apu := by
  obtain ⟨_, _, _, _, _, _, h⟩ := operandByte_frame x s; rw [h]
@[simp] theorem operandByte_irqLine : (operandByte x s).2.irqLine = s.irqLine := by
  obtain ⟨_, _, _, _, _, _, h⟩ := operandByte_frame x s; rw [h]
@[simp] theorem operandByte_padInput : (operandByte x s).2.padInput = s.padInput := by
  obtain ⟨_, _, _, _, _, _, h⟩ := operandByte_frame x s; rw [h]
@[simp] theorem operandByte_frameReady : (operandByte x s).2.frameReady = s.frameReady := by
  obtain ⟨_, _, _, _, _, _, h⟩ := operandByte_frame x s; rw [h]
@[simp] theorem operandByte_cart : (operandByte x s).2.cart = s.cart := by
  obtain ⟨_, _, _, _, _, _, h⟩ := operandByte_frame x s; rw [h]
@[simp] theorem operandByte_cfg : (operandByte x s).2.cfg = s.cfg := by
  obtain ⟨_, _, _, _, _, _, h⟩ := operandByte_frame x s; rw [h]
end operandByte

end Sys2Proof.Machine
end

