-- ==== Sys2Proof/Laws/Exec.lean ====
section
/-! SUPPORT. What executing an instruction does, said once by its operation and its operand. -/

namespace Sys2Proof.Machine

/-- The address an operand names; only a memory operand names one. -/
def operandAddress : Operand → State → Word
  | .mem f, s => (resolve f s).ea
  | _, _ => 0x0000#16

/-- Read, modify and write an operand: the accumulator or a memory byte. -/
def modifyOperand (g : Byte → Flags → AluResult) : Operand → State → State
  | .mem f, s =>
    let ea := (resolve f s).ea
    let m := memRead ea s
    let o := g m.1 s.p
    { memWrite ea o.value m.2 with p := o.flags }
  | _, s => modifyAcc g s

/-- Go to the operand's address if the condition holds. -/
def goIf (cond : Bool) (x : Operand) (s : State) : State :=
  if cond then { s with pc := operandAddress x s } else s

/-- Jump to the operand's address. -/
def jumpOperand : Operand → State → State
  | .mem f, s => jumpTo f s
  | _, s => s

/-- Call the operand's address. -/
def callOperand : Operand → State → State
  | .mem f, s => callTo f s
  | _, s => s

/-- What each operation does with its operand. -/
def effect : Op → Operand → State → State
  | .lda, x, s => loadA (operandByte x s)
  | .ldx, x, s => loadX (operandByte x s)
  | .ldy, x, s => loadY (operandByte x s)
  | .sta, x, s => memWrite (operandAddress x s) s.a s
  | .stx, x, s => memWrite (operandAddress x s) s.x s
  | .sty, x, s => memWrite (operandAddress x s) s.y s
  | .tax, _, s => { s with x := s.a, p := s.p.setZN s.a }
  | .tay, _, s => { s with y := s.a, p := s.p.setZN s.a }
  | .txa, _, s => { s with a := s.x, p := s.p.setZN s.x }
  | .tya, _, s => { s with a := s.y, p := s.p.setZN s.y }
  | .tsx, _, s => { s with x := s.sp, p := s.p.setZN s.sp }
  | .txs, _, s => { s with sp := s.x }
  | .adc, x, s => addA (operandByte x s)
  | .sbc, x, s => subA (operandByte x s)
  | .and, x, s => andA (operandByte x s)
  | .ora, x, s => orA (operandByte x s)
  | .eor, x, s => xorA (operandByte x s)
  | .cmp, x, s => compareA (operandByte x s)
  | .cpx, x, s => compareX (operandByte x s)
  | .cpy, x, s => compareY (operandByte x s)
  | .bit, x, s => testBits (operandByte x s)
  | .inc, x, s => modifyOperand incResult x s
  | .dec, x, s => modifyOperand decResult x s
  | .inx, _, s => putX s (s.x + 1#8)
  | .iny, _, s => putY s (s.y + 1#8)
  | .dex, _, s => putX s (s.x - 1#8)
  | .dey, _, s => putY s (s.y - 1#8)
  | .asl, x, s => modifyOperand aslResult x s
  | .lsr, x, s => modifyOperand lsrResult x s
  | .rol, x, s => modifyOperand rolResult x s
  | .ror, x, s => modifyOperand rorResult x s
  | .jmp, x, s => jumpOperand x s
  | .jsr, x, s => callOperand x s
  | .rts, _, s => returnFromCall s
  | .bpl, x, s => goIf (!s.p.n) x s
  | .bmi, x, s => goIf s.p.n x s
  | .bvc, x, s => goIf (!s.p.v) x s
  | .bvs, x, s => goIf s.p.v x s
  | .bcc, x, s => goIf (!s.p.c) x s
  | .bcs, x, s => goIf s.p.c x s
  | .bne, x, s => goIf (!s.p.z) x s
  | .beq, x, s => goIf s.p.z x s
  | .pha, _, s => push s.a s
  | .pla, _, s => loadA (pull s)
  | .php, _, s => push (s.p.pack true) s
  | .plp, _, s => { (pull s).2 with p := Flags.unpack (pull s).1 }
  | .clc, _, s => { s with p.c := false }
  | .sec, _, s => { s with p.c := true }
  | .cli, _, s => { s with p.i := false }
  | .sei, _, s => { s with p.i := true }
  | .cld, _, s => { s with p.d := false }
  | .sed, _, s => { s with p.d := true }
  | .clv, _, s => { s with p.v := false }
  | .nop, _, s => s
  | .brk, _, s => if s.cfg.brkGated && s.p.i then s else interrupt .brk { s with pc := s.pc + 1#16 }
  | .rti, _, s => returnFromInterrupt s

theorem readMem_operand {f : AddrForm} (h : f.mode ≠ .ind) (s : State) : readMem f s = operandByte (.mem f) s :=
  readMem_eq h s

theorem storeMem_operand {f : AddrForm} (h : f.mode ≠ .ind) (v : Byte) (s : State) :
    storeMem f v s = memWrite (operandAddress (.mem f) s) v s := storeMem_eq h v s

theorem modifyMem_operand {f : AddrForm} (h : f.mode ≠ .ind) (g : Byte → Flags → AluResult) (s : State) :
    modifyMem f g s = modifyOperand g (.mem f) s := modifyMem_eq h g s

/-- Every instruction answers the next state its operation gives. -/
theorem exec_eq : ∀ (i : Instr) (s : State), exec i s = .next (effect i.op i.operand s)
  | .ldaImm _, _ => rfl
  | .ldaZp x, s => congrArg (fun m => Host.Outcome.next (loadA m)) (readMem_operand (f := .zp x) nofun s)
  | .ldaZpx x, s => congrArg (fun m => Host.Outcome.next (loadA m)) (readMem_operand (f := .zpx x) nofun s)
  | .ldaAbs x, s => congrArg (fun m => Host.Outcome.next (loadA m)) (readMem_operand (f := .abs x) nofun s)
  | .ldaAbx x, s => congrArg (fun m => Host.Outcome.next (loadA m)) (readMem_operand (f := .abx x) nofun s)
  | .ldaAby x, s => congrArg (fun m => Host.Outcome.next (loadA m)) (readMem_operand (f := .aby x) nofun s)
  | .ldaIzx x, s => congrArg (fun m => Host.Outcome.next (loadA m)) (readMem_operand (f := .izx x) nofun s)
  | .ldaIzy x, s => congrArg (fun m => Host.Outcome.next (loadA m)) (readMem_operand (f := .izy x) nofun s)
  | .ldxImm _, _ => rfl
  | .ldxZp x, s => congrArg (fun m => Host.Outcome.next (loadX m)) (readMem_operand (f := .zp x) nofun s)
  | .ldxZpy x, s => congrArg (fun m => Host.Outcome.next (loadX m)) (readMem_operand (f := .zpy x) nofun s)
  | .ldxAbs x, s => congrArg (fun m => Host.Outcome.next (loadX m)) (readMem_operand (f := .abs x) nofun s)
  | .ldxAby x, s => congrArg (fun m => Host.Outcome.next (loadX m)) (readMem_operand (f := .aby x) nofun s)
  | .ldyImm _, _ => rfl
  | .ldyZp x, s => congrArg (fun m => Host.Outcome.next (loadY m)) (readMem_operand (f := .zp x) nofun s)
  | .ldyZpx x, s => congrArg (fun m => Host.Outcome.next (loadY m)) (readMem_operand (f := .zpx x) nofun s)
  | .ldyAbs x, s => congrArg (fun m => Host.Outcome.next (loadY m)) (readMem_operand (f := .abs x) nofun s)
  | .ldyAbx x, s => congrArg (fun m => Host.Outcome.next (loadY m)) (readMem_operand (f := .abx x) nofun s)
  | .staZp x, s => congrArg Host.Outcome.next (storeMem_operand (f := .zp x) nofun _ s)
  | .staZpx x, s => congrArg Host.Outcome.next (storeMem_operand (f := .zpx x) nofun _ s)
  | .staAbs x, s => congrArg Host.Outcome.next (storeMem_operand (f := .abs x) nofun _ s)
  | .staAbx x, s => congrArg Host.Outcome.next (storeMem_operand (f := .abx x) nofun _ s)
  | .staAby x, s => congrArg Host.Outcome.next (storeMem_operand (f := .aby x) nofun _ s)
  | .staIzx x, s => congrArg Host.Outcome.next (storeMem_operand (f := .izx x) nofun _ s)
  | .staIzy x, s => congrArg Host.Outcome.next (storeMem_operand (f := .izy x) nofun _ s)
  | .stxZp x, s => congrArg Host.Outcome.next (storeMem_operand (f := .zp x) nofun _ s)
  | .stxZpy x, s => congrArg Host.Outcome.next (storeMem_operand (f := .zpy x) nofun _ s)
  | .stxAbs x, s => congrArg Host.Outcome.next (storeMem_operand (f := .abs x) nofun _ s)
  | .styZp x, s => congrArg Host.Outcome.next (storeMem_operand (f := .zp x) nofun _ s)
  | .styZpx x, s => congrArg Host.Outcome.next (storeMem_operand (f := .zpx x) nofun _ s)
  | .styAbs x, s => congrArg Host.Outcome.next (storeMem_operand (f := .abs x) nofun _ s)
  | .tax, _ => rfl
  | .tay, _ => rfl
  | .txa, _ => rfl
  | .tya, _ => rfl
  | .tsx, _ => rfl
  | .txs, _ => rfl
  | .adcImm _, _ => rfl
  | .adcZp x, s => congrArg (fun m => Host.Outcome.next (addA m)) (readMem_operand (f := .zp x) nofun s)
  | .adcZpx x, s => congrArg (fun m => Host.Outcome.next (addA m)) (readMem_operand (f := .zpx x) nofun s)
  | .adcAbs x, s => congrArg (fun m => Host.Outcome.next (addA m)) (readMem_operand (f := .abs x) nofun s)
  | .adcAbx x, s => congrArg (fun m => Host.Outcome.next (addA m)) (readMem_operand (f := .abx x) nofun s)
  | .adcAby x, s => congrArg (fun m => Host.Outcome.next (addA m)) (readMem_operand (f := .aby x) nofun s)
  | .adcIzx x, s => congrArg (fun m => Host.Outcome.next (addA m)) (readMem_operand (f := .izx x) nofun s)
  | .adcIzy x, s => congrArg (fun m => Host.Outcome.next (addA m)) (readMem_operand (f := .izy x) nofun s)
  | .sbcImm _, _ => rfl
  | .sbcZp x, s => congrArg (fun m => Host.Outcome.next (subA m)) (readMem_operand (f := .zp x) nofun s)
  | .sbcZpx x, s => congrArg (fun m => Host.Outcome.next (subA m)) (readMem_operand (f := .zpx x) nofun s)
  | .sbcAbs x, s => congrArg (fun m => Host.Outcome.next (subA m)) (readMem_operand (f := .abs x) nofun s)
  | .sbcAbx x, s => congrArg (fun m => Host.Outcome.next (subA m)) (readMem_operand (f := .abx x) nofun s)
  | .sbcAby x, s => congrArg (fun m => Host.Outcome.next (subA m)) (readMem_operand (f := .aby x) nofun s)
  | .sbcIzx x, s => congrArg (fun m => Host.Outcome.next (subA m)) (readMem_operand (f := .izx x) nofun s)
  | .sbcIzy x, s => congrArg (fun m => Host.Outcome.next (subA m)) (readMem_operand (f := .izy x) nofun s)
  | .andImm _, _ => rfl
  | .andZp x, s => congrArg (fun m => Host.Outcome.next (andA m)) (readMem_operand (f := .zp x) nofun s)
  | .andZpx x, s => congrArg (fun m => Host.Outcome.next (andA m)) (readMem_operand (f := .zpx x) nofun s)
  | .andAbs x, s => congrArg (fun m => Host.Outcome.next (andA m)) (readMem_operand (f := .abs x) nofun s)
  | .andAbx x, s => congrArg (fun m => Host.Outcome.next (andA m)) (readMem_operand (f := .abx x) nofun s)
  | .andAby x, s => congrArg (fun m => Host.Outcome.next (andA m)) (readMem_operand (f := .aby x) nofun s)
  | .andIzx x, s => congrArg (fun m => Host.Outcome.next (andA m)) (readMem_operand (f := .izx x) nofun s)
  | .andIzy x, s => congrArg (fun m => Host.Outcome.next (andA m)) (readMem_operand (f := .izy x) nofun s)
  | .oraImm _, _ => rfl
  | .oraZp x, s => congrArg (fun m => Host.Outcome.next (orA m)) (readMem_operand (f := .zp x) nofun s)
  | .oraZpx x, s => congrArg (fun m => Host.Outcome.next (orA m)) (readMem_operand (f := .zpx x) nofun s)
  | .oraAbs x, s => congrArg (fun m => Host.Outcome.next (orA m)) (readMem_operand (f := .abs x) nofun s)
  | .oraAbx x, s => congrArg (fun m => Host.Outcome.next (orA m)) (readMem_operand (f := .abx x) nofun s)
  | .oraAby x, s => congrArg (fun m => Host.Outcome.next (orA m)) (readMem_operand (f := .aby x) nofun s)
  | .oraIzx x, s => congrArg (fun m => Host.Outcome.next (orA m)) (readMem_operand (f := .izx x) nofun s)
  | .oraIzy x, s => congrArg (fun m => Host.Outcome.next (orA m)) (readMem_operand (f := .izy x) nofun s)
  | .eorImm _, _ => rfl
  | .eorZp x, s => congrArg (fun m => Host.Outcome.next (xorA m)) (readMem_operand (f := .zp x) nofun s)
  | .eorZpx x, s => congrArg (fun m => Host.Outcome.next (xorA m)) (readMem_operand (f := .zpx x) nofun s)
  | .eorAbs x, s => congrArg (fun m => Host.Outcome.next (xorA m)) (readMem_operand (f := .abs x) nofun s)
  | .eorAbx x, s => congrArg (fun m => Host.Outcome.next (xorA m)) (readMem_operand (f := .abx x) nofun s)
  | .eorAby x, s => congrArg (fun m => Host.Outcome.next (xorA m)) (readMem_operand (f := .aby x) nofun s)
  | .eorIzx x, s => congrArg (fun m => Host.Outcome.next (xorA m)) (readMem_operand (f := .izx x) nofun s)
  | .eorIzy x, s => congrArg (fun m => Host.Outcome.next (xorA m)) (readMem_operand (f := .izy x) nofun s)
  | .cmpImm _, _ => rfl
  | .cmpZp x, s => congrArg (fun m => Host.Outcome.next (compareA m)) (readMem_operand (f := .zp x) nofun s)
  | .cmpZpx x, s => congrArg (fun m => Host.Outcome.next (compareA m)) (readMem_operand (f := .zpx x) nofun s)
  | .cmpAbs x, s => congrArg (fun m => Host.Outcome.next (compareA m)) (readMem_operand (f := .abs x) nofun s)
  | .cmpAbx x, s => congrArg (fun m => Host.Outcome.next (compareA m)) (readMem_operand (f := .abx x) nofun s)
  | .cmpAby x, s => congrArg (fun m => Host.Outcome.next (compareA m)) (readMem_operand (f := .aby x) nofun s)
  | .cmpIzx x, s => congrArg (fun m => Host.Outcome.next (compareA m)) (readMem_operand (f := .izx x) nofun s)
  | .cmpIzy x, s => congrArg (fun m => Host.Outcome.next (compareA m)) (readMem_operand (f := .izy x) nofun s)
  | .cpxImm _, _ => rfl
  | .cpxZp x, s => congrArg (fun m => Host.Outcome.next (compareX m)) (readMem_operand (f := .zp x) nofun s)
  | .cpxAbs x, s => congrArg (fun m => Host.Outcome.next (compareX m)) (readMem_operand (f := .abs x) nofun s)
  | .cpyImm _, _ => rfl
  | .cpyZp x, s => congrArg (fun m => Host.Outcome.next (compareY m)) (readMem_operand (f := .zp x) nofun s)
  | .cpyAbs x, s => congrArg (fun m => Host.Outcome.next (compareY m)) (readMem_operand (f := .abs x) nofun s)
  | .bitZp x, s => congrArg (fun m => Host.Outcome.next (testBits m)) (readMem_operand (f := .zp x) nofun s)
  | .bitAbs x, s => congrArg (fun m => Host.Outcome.next (testBits m)) (readMem_operand (f := .abs x) nofun s)
  | .incZp x, s => congrArg Host.Outcome.next (modifyMem_operand (f := .zp x) nofun _ s)
  | .incZpx x, s => congrArg Host.Outcome.next (modifyMem_operand (f := .zpx x) nofun _ s)
  | .incAbs x, s => congrArg Host.Outcome.next (modifyMem_operand (f := .abs x) nofun _ s)
  | .incAbx x, s => congrArg Host.Outcome.next (modifyMem_operand (f := .abx x) nofun _ s)
  | .decZp x, s => congrArg Host.Outcome.next (modifyMem_operand (f := .zp x) nofun _ s)
  | .decZpx x, s => congrArg Host.Outcome.next (modifyMem_operand (f := .zpx x) nofun _ s)
  | .decAbs x, s => congrArg Host.Outcome.next (modifyMem_operand (f := .abs x) nofun _ s)
  | .decAbx x, s => congrArg Host.Outcome.next (modifyMem_operand (f := .abx x) nofun _ s)
  | .inx, _ => rfl
  | .iny, _ => rfl
  | .dex, _ => rfl
  | .dey, _ => rfl
  | .aslAcc, _ => rfl
  | .aslZp x, s => congrArg Host.Outcome.next (modifyMem_operand (f := .zp x) nofun _ s)
  | .aslZpx x, s => congrArg Host.Outcome.next (modifyMem_operand (f := .zpx x) nofun _ s)
  | .aslAbs x, s => congrArg Host.Outcome.next (modifyMem_operand (f := .abs x) nofun _ s)
  | .aslAbx x, s => congrArg Host.Outcome.next (modifyMem_operand (f := .abx x) nofun _ s)
  | .lsrAcc, _ => rfl
  | .lsrZp x, s => congrArg Host.Outcome.next (modifyMem_operand (f := .zp x) nofun _ s)
  | .lsrZpx x, s => congrArg Host.Outcome.next (modifyMem_operand (f := .zpx x) nofun _ s)
  | .lsrAbs x, s => congrArg Host.Outcome.next (modifyMem_operand (f := .abs x) nofun _ s)
  | .lsrAbx x, s => congrArg Host.Outcome.next (modifyMem_operand (f := .abx x) nofun _ s)
  | .rolAcc, _ => rfl
  | .rolZp x, s => congrArg Host.Outcome.next (modifyMem_operand (f := .zp x) nofun _ s)
  | .rolZpx x, s => congrArg Host.Outcome.next (modifyMem_operand (f := .zpx x) nofun _ s)
  | .rolAbs x, s => congrArg Host.Outcome.next (modifyMem_operand (f := .abs x) nofun _ s)
  | .rolAbx x, s => congrArg Host.Outcome.next (modifyMem_operand (f := .abx x) nofun _ s)
  | .rorAcc, _ => rfl
  | .rorZp x, s => congrArg Host.Outcome.next (modifyMem_operand (f := .zp x) nofun _ s)
  | .rorZpx x, s => congrArg Host.Outcome.next (modifyMem_operand (f := .zpx x) nofun _ s)
  | .rorAbs x, s => congrArg Host.Outcome.next (modifyMem_operand (f := .abs x) nofun _ s)
  | .rorAbx x, s => congrArg Host.Outcome.next (modifyMem_operand (f := .abx x) nofun _ s)
  | .jmpAbs _, _ => rfl
  | .jmpInd _, _ => rfl
  | .jsr _, _ => rfl
  | .rts, _ => rfl
  | .bpl _, _ => rfl
  | .bmi _, _ => rfl
  | .bvc _, _ => rfl
  | .bvs _, _ => rfl
  | .bcc _, _ => rfl
  | .bcs _, _ => rfl
  | .bne _, _ => rfl
  | .beq _, _ => rfl
  | .pha, _ => rfl
  | .pla, _ => rfl
  | .php, _ => rfl
  | .plp, _ => rfl
  | .clc, _ => rfl
  | .sec, _ => rfl
  | .cli, _ => rfl
  | .sei, _ => rfl
  | .cld, _ => rfl
  | .sed, _ => rfl
  | .clv, _ => rfl
  | .nop, _ => rfl
  | .brk, _ => (apply_ite Host.Outcome.next _ _ _).symm
  | .rti, _ => rfl

end Sys2Proof.Machine
end

