-- ==== Sys2Proof/Laws/Time.lean ====
section
/-! SUPPORT. PPU and APU time: what a line end does to the counters, that the loops end by their own tests, and that
only the total of the cycle counts matters. -/

namespace Sys2Proof.Machine

/-! ### Rendering leaves the registers, the memories and the counters alone -/

theorem drawSpritePixel_frame (cart : Cartridge) (u : Ppu) (l : Nat) (t attr x : Byte) (r c : Nat) :
    ∃ sl, drawSpritePixel cart u l t attr x r c = { u with spriteLayer := sl } := by
  unfold drawSpritePixel
  extract_lets fx fy px
  split
  · exact ⟨_, rfl⟩
  · exact ⟨u.spriteLayer, rfl⟩

theorem drawSprite_frame (cart : Cartridge) (u : Ppu) (l : Nat) (t attr x : Byte) :
    ∃ sl, drawSprite cart u l t attr x = { u with spriteLayer := sl } := by
  unfold drawSprite
  generalize tileCells = cells
  induction cells generalizing u with
  | nil => exact ⟨u.spriteLayer, rfl⟩
  | cons rc rest ih =>
    obtain ⟨sl, h⟩ := drawSpritePixel_frame cart u l t attr x rc.1 rc.2
    simp only [List.foldl_cons, h]
    obtain ⟨sl', h'⟩ := ih { u with spriteLayer := sl }
    exact ⟨sl', by rw [h']⟩

theorem spriteMatch_frame (cart : Cartridge) (u : Ppu) (l i : Nat) :
    ∃ hit sl, spriteMatch cart u l i = { u with sprite0Hit := hit, spriteLayer := sl } := by
  have h1 : ∃ hit, (if i = 0 then { u with sprite0Hit := true } else u) = { u with sprite0Hit := hit } := by
    split
    · exact ⟨true, rfl⟩
    · exact ⟨u.sprite0Hit, rfl⟩
  obtain ⟨hit, h⟩ := h1
  unfold spriteMatch
  extract_lets u1
  change u1 = _ at h
  rw [h]
  split
  · obtain ⟨sl, h'⟩ := drawSprite_frame cart { u with sprite0Hit := hit } l
      (u.oam.read (4 * i + 1)) (u.oam.read (4 * i + 2)) (u.oam.read (4 * i + 3))
    exact ⟨hit, sl, h'⟩
  · exact ⟨hit, u.spriteLayer, rfl⟩

theorem spriteScan_frame (cart : Cartridge) (l : Nat) (is : List Nat) (count : Nat) (u : Ppu) :
    ∃ hit ov sl, spriteScan cart l is count u =
      { u with sprite0Hit := hit, spriteOverflow := ov, spriteLayer := sl } := by
  induction is generalizing count u with
  | nil => exact ⟨u.sprite0Hit, u.spriteOverflow, u.spriteLayer, rfl⟩
  | cons i rest ih =>
    unfold spriteScan
    split
    · exact ih count u
    · split
      · exact ⟨u.sprite0Hit, true, u.spriteLayer, rfl⟩
      · obtain ⟨hit, sl, h⟩ := spriteMatch_frame cart u l i
        obtain ⟨hit', ov', sl', h'⟩ := ih (count + 1) { u with sprite0Hit := hit, spriteLayer := sl }
        exact ⟨hit', ov', sl', by rw [h, h']⟩

/-- What rendering a line can change: the two sprite flags and the two layers (46_ppu_rendering_timing.md R330). -/
theorem renderLine_frame (cart : Cartridge) (u : Ppu) (l : Nat) :
    ∃ hit ov bg sl, renderLine cart u l =
      { u with sprite0Hit := hit, spriteOverflow := ov, bgLayer := bg, spriteLayer := sl } := by
  unfold renderLine spriteLine
  split
  · obtain ⟨hit, ov, sl, h⟩ := spriteScan_frame cart l (List.range 64) 0 (renderBand cart u l)
    exact ⟨hit, ov, _, sl, h⟩
  · obtain ⟨hit, ov, sl, h⟩ := spriteScan_frame cart l (List.range 64) 0 u
    exact ⟨hit, ov, u.bgLayer, sl, h⟩

/-! ### A line end -/

/-- What a line end can change (46_ppu_rendering_timing.md R322 to R327). -/
theorem endLine_frame (s : State) :
    ∃ vb hit ov bg sl nmi ready, endLine s =
      { s with
        ppu := { s.ppu with
          vblank := vb, sprite0Hit := hit, spriteOverflow := ov, bgLayer := bg, spriteLayer := sl,
          line := if s.ppu.line = 261 then 0 else s.ppu.line + 1 }
        nmiPending := nmi
        frameReady := ready } := by
  by_cases h1 : s.ppu.line ≤ 239
  · obtain ⟨hit, ov, bg, sl, h⟩ := renderLine_frame s.cart s.ppu s.ppu.line
    have h2 : ¬s.ppu.line + 1 = 241 := by omega
    have h3 : ¬s.ppu.line + 1 = 262 := by omega
    have h4 : ¬s.ppu.line = 261 := by omega
    exact ⟨s.ppu.vblank, hit, ov, bg, sl, s.nmiPending, s.frameReady, by simp [endLine, h1, h2, h3, h4, h]⟩
  · by_cases h2 : s.ppu.line + 1 = 241
    · have h3 : ¬s.ppu.line + 1 = 262 := by omega
      have h4 : ¬s.ppu.line = 261 := by omega
      exact ⟨true, s.ppu.sprite0Hit, s.ppu.spriteOverflow, s.ppu.bgLayer, s.ppu.spriteLayer, _, true, by
        simp only [endLine, h1, h2, h4, vblankEntry, if_false, if_true]; rfl⟩
    · by_cases h3 : s.ppu.line = 261
      · exact ⟨false, false, false, s.ppu.bgLayer, [], s.nmiPending, s.frameReady, by
          simp [endLine, h3, frameRestart]⟩
      · have h4 : ¬s.ppu.line + 1 = 262 := by omega
        exact ⟨s.ppu.vblank, s.ppu.sprite0Hit, s.ppu.spriteOverflow, s.ppu.bgLayer, s.ppu.spriteLayer,
          s.nmiPending, s.frameReady, by simp [endLine, h1, h2, h3, h4]⟩

@[simp] theorem endLine_dot (s : State) : (endLine s).ppu.dot = s.ppu.dot := by
  obtain ⟨_, _, _, _, _, _, _, h⟩ := endLine_frame s; rw [h]

@[simp] theorem endLine_line (s : State) :
    (endLine s).ppu.line = if s.ppu.line = 261 then 0 else s.ppu.line + 1 := by
  obtain ⟨_, _, _, _, _, _, _, h⟩ := endLine_frame s; rw [h]

/-! ### The dot counter is a bystander of a line end -/

/-- The PPU with another dot counter. -/
def Ppu.setDot (u : Ppu) (d : Nat) : Ppu := { u with dot := d }

/-- The state with another dot counter. -/
def State.setDot (s : State) (d : Nat) : State := { s with ppu := s.ppu.setDot d }

section setDot
variable (u : Ppu) (s : State) (cart : Cartridge) (d e : Nat)
@[simp] theorem Ppu.setDot_dot : (u.setDot d).dot = d := rfl
@[simp] theorem Ppu.setDot_line : (u.setDot d).line = u.line := rfl
@[simp] theorem Ppu.setDot_oam : (u.setDot d).oam = u.oam := rfl
@[simp] theorem Ppu.setDot_bgEnable : (u.setDot d).bgEnable = u.bgEnable := rfl
@[simp] theorem Ppu.setDot_spriteEnable : (u.setDot d).spriteEnable = u.spriteEnable := rfl
@[simp] theorem Ppu.setDot_spriteTable : (u.setDot d).spriteTable = u.spriteTable := rfl
@[simp] theorem Ppu.setDot_spriteLayer : (u.setDot d).spriteLayer = u.spriteLayer := rfl
@[simp] theorem Ppu.setDot_setDot : (u.setDot d).setDot e = u.setDot e := rfl
@[simp] theorem State.setDot_ppu : (s.setDot d).ppu = s.ppu.setDot d := rfl
@[simp] theorem State.setDot_cart : (s.setDot d).cart = s.cart := rfl
@[simp] theorem State.setDot_setDot : (s.setDot d).setDot e = s.setDot e := rfl
theorem State.setDot_self : s.setDot s.ppu.dot = s := rfl
@[simp] theorem tilePixel_setDot (b t x y : Nat) : tilePixel cart (u.setDot d) b t x y = tilePixel cart u b t x y := rfl
@[simp] theorem paletteColour_setDot (a : Nat) : paletteColour cart (u.setDot d) a = paletteColour cart u a := rfl
@[simp] theorem renderBand_setDot (l : Nat) : renderBand cart (u.setDot d) l = (renderBand cart u l).setDot d := rfl
end setDot

theorem drawSpritePixel_setDot (cart : Cartridge) (u : Ppu) (d l : Nat) (t attr x : Byte) (r c : Nat) :
    drawSpritePixel cart (u.setDot d) l t attr x r c = (drawSpritePixel cart u l t attr x r c).setDot d := by
  simp only [drawSpritePixel, tilePixel_setDot, paletteColour_setDot, Ppu.setDot_spriteTable]
  rw [apply_ite (fun v => Ppu.setDot v d)]
  rfl

theorem drawSprite_setDot (cart : Cartridge) (u : Ppu) (d l : Nat) (t attr x : Byte) :
    drawSprite cart (u.setDot d) l t attr x = (drawSprite cart u l t attr x).setDot d := by
  unfold drawSprite
  generalize tileCells = cells
  induction cells generalizing u with
  | nil => rfl
  | cons rc rest ih => simp only [List.foldl_cons, drawSpritePixel_setDot, ih]

theorem spriteMatch_setDot (cart : Cartridge) (u : Ppu) (d l i : Nat) :
    spriteMatch cart (u.setDot d) l i = (spriteMatch cart u l i).setDot d := by
  have h0 : (if i = 0 then { u.setDot d with sprite0Hit := true } else u.setDot d) =
      (if i = 0 then { u with sprite0Hit := true } else u).setDot d := by split <;> rfl
  unfold spriteMatch
  rw [h0]
  generalize (if i = 0 then { u with sprite0Hit := true } else u) = u1
  simp only [Ppu.setDot_spriteEnable, Ppu.setDot_oam, drawSprite_setDot]
  split <;> rfl

theorem spriteScan_setDot (cart : Cartridge) (l : Nat) (is : List Nat) (count : Nat) (u : Ppu) (d : Nat) :
    spriteScan cart l is count (u.setDot d) = (spriteScan cart l is count u).setDot d := by
  induction is generalizing count u with
  | nil => rfl
  | cons i rest ih =>
    simp only [spriteScan, Ppu.setDot_oam, spriteMatch_setDot, ih]
    rw [apply_ite (fun v => Ppu.setDot v d), apply_ite (fun v => Ppu.setDot v d)]
    rfl

theorem renderLine_setDot (cart : Cartridge) (u : Ppu) (l d : Nat) :
    renderLine cart (u.setDot d) l = (renderLine cart u l).setDot d := by
  unfold renderLine spriteLine
  by_cases h : l % 8 = 0 ∧ u.bgEnable
  · rw [if_pos h, if_pos (by exact h), renderBand_setDot, spriteScan_setDot]
  · rw [if_neg h, if_neg (by exact h), spriteScan_setDot]

/-- A line end neither reads nor writes the dot counter. -/
theorem endLine_setDot (s : State) (d : Nat) : endLine (s.setDot d) = (endLine s).setDot d := by
  simp only [endLine, State.setDot_ppu, State.setDot_cart, Ppu.setDot_line, renderLine_setDot]
  by_cases h1 : s.ppu.line ≤ 239
  · have h2 : ¬s.ppu.line + 1 = 241 := by omega
    have h3 : ¬s.ppu.line + 1 = 262 := by omega
    simp only [h1, h2, h3, if_true, if_false]; rfl
  · simp only [h1, if_false]
    by_cases h2 : s.ppu.line + 1 = 241
    · simp only [h2, if_true]; rfl
    · by_cases h3 : s.ppu.line + 1 = 262
      · simp only [h3, if_true]; rfl
      · simp only [h2, h3, if_false]; rfl

/-! ### The loops -/

/-- `n` line ends in a row. -/
def endLines : Nat → State → State
  | 0, s => s
  | n + 1, s => endLines n (endLine s)

theorem endLines_setDot (n : Nat) (s : State) (d : Nat) : endLines n (s.setDot d) = (endLines n s).setDot d := by
  induction n generalizing s with
  | zero => rfl
  | succ n ih => simp only [endLines, endLine_setDot, ih]

theorem endLines_add (m n : Nat) (s : State) : endLines (m + n) s = endLines n (endLines m s) := by
  induction m generalizing s with
  | zero => rw [Nat.zero_add]; rfl
  | succ m ih => rw [Nat.succ_add]; exact ih (endLine s)

@[simp] theorem endLines_dot (n : Nat) (s : State) : (endLines n s).ppu.dot = s.ppu.dot := by
  induction n generalizing s with
  | zero => rfl
  | succ n ih => rw [endLines, ih, endLine_dot]

/-- With enough fuel the loop performs one line end for every whole line in the dot counter. -/
theorem lineLoop_eq (fuel : Nat) (s : State) (h : s.ppu.dot / 341 ≤ fuel) :
    lineLoop fuel s = (endLines (s.ppu.dot / 341) s).setDot (s.ppu.dot % 341) := by
  induction fuel generalizing s with
  | zero =>
    have h0 : s.ppu.dot / 341 = 0 := by omega
    have h1 : s.ppu.dot % 341 = s.ppu.dot := Nat.mod_eq_of_lt (by omega)
    rw [h0, h1]; rfl
  | succ fuel ih =>
    unfold lineLoop
    split
    · next hd => rw [Nat.div_eq_of_lt hd, Nat.mod_eq_of_lt hd]; rfl
    · next hd =>
      have e : s.ppu.dot / 341 = (s.ppu.dot - 341) / 341 + 1 := by omega
      have em : (s.ppu.dot - 341) % 341 = s.ppu.dot % 341 := by omega
      have es : endLine { s with ppu.dot := s.ppu.dot - 341 } = (endLine s).setDot (s.ppu.dot - 341) :=
        endLine_setDot s _
      have ed : ((endLine s).setDot (s.ppu.dot - 341)).ppu.dot = s.ppu.dot - 341 := rfl
      rw [es, ih _ (by rw [ed]; omega), ed, em, endLines_setDot, State.setDot_setDot, e, endLines]

/-- `PPU.run` in one line: the dots of `c` cycles, one line end for every whole line, the remainder kept. -/
theorem ppuRun_eq (c : Nat) (s : State) :
    ppuRun c s =
      (endLines ((s.ppu.dot + 3 * c) / 341) { s with frameReady := false }).setDot ((s.ppu.dot + 3 * c) % 341) := by
  have h := lineLoop_eq ((s.ppu.dot + 3 * c) / 341)
    (({ s with frameReady := false } : State).setDot (s.ppu.dot + 3 * c)) (Nat.le_refl _)
  rw [endLines_setDot] at h
  exact h

theorem endLines_frame (n : Nat) (s : State) :
    ∃ vb hit ov bg sl nmi ready line, endLines n s =
      { s with
        ppu := { s.ppu with
          vblank := vb, sprite0Hit := hit, spriteOverflow := ov, bgLayer := bg, spriteLayer := sl, line := line }
        nmiPending := nmi
        frameReady := ready } := by
  induction n generalizing s with
  | zero => exact ⟨s.ppu.vblank, s.ppu.sprite0Hit, s.ppu.spriteOverflow, s.ppu.bgLayer, s.ppu.spriteLayer,
      s.nmiPending, s.frameReady, s.ppu.line, rfl⟩
  | succ n ih =>
    obtain ⟨_, _, _, _, _, _, _, h⟩ := endLine_frame s
    obtain ⟨vb, hit, ov, bg, sl, nmi, ready, line, h'⟩ := ih (endLine s)
    exact ⟨vb, hit, ov, bg, sl, nmi, ready, line, by rw [endLines, h', h]⟩

/-- What `PPU.run` can change: the status flags, the layers, the counters, the NMI request and frame ready. -/
theorem ppuRun_frame (c : Nat) (s : State) :
    ∃ vb hit ov bg sl nmi ready line, ppuRun c s =
      { s with
        ppu := { s.ppu with
          vblank := vb, sprite0Hit := hit, spriteOverflow := ov, bgLayer := bg, spriteLayer := sl, line := line,
          dot := (s.ppu.dot + 3 * c) % 341 }
        nmiPending := nmi
        frameReady := ready } := by
  obtain ⟨vb, hit, ov, bg, sl, nmi, ready, line, h⟩ :=
    endLines_frame ((s.ppu.dot + 3 * c) / 341) { s with frameReady := false }
  exact ⟨vb, hit, ov, bg, sl, nmi, ready, line, by rw [ppuRun_eq, h]; rfl⟩

@[simp] theorem endLines_line (n : Nat) (s : State) (h : s.ppu.line ≤ 261) :
    (endLines n s).ppu.line = (s.ppu.line + n) % 262 := by
  induction n generalizing s with
  | zero => rw [endLines]; omega
  | succ n ih =>
    rw [endLines, ih _ (by rw [endLine_line]; split <;> omega), endLine_line]
    split <;> omega

theorem ppuRun_line (c : Nat) (s : State) (h : s.ppu.line ≤ 261) :
    (ppuRun c s).ppu.line = (s.ppu.line + (s.ppu.dot + 3 * c) / 341) % 262 := by
  rw [ppuRun_eq]
  exact endLines_line _ { s with frameReady := false } h

section ppuRun
variable (c : Nat) (s : State)
@[simp] theorem ppuRun_dot : (ppuRun c s).ppu.dot = (s.ppu.dot + 3 * c) % 341 := by
  obtain ⟨_, _, _, _, _, _, _, _, h⟩ := ppuRun_frame c s; rw [h]
@[simp] theorem ppuRun_totalCycles : (ppuRun c s).totalCycles = s.totalCycles := by
  obtain ⟨_, _, _, _, _, _, _, _, h⟩ := ppuRun_frame c s; rw [h]
@[simp] theorem ppuRun_extra : (ppuRun c s).extra = s.extra := by
  obtain ⟨_, _, _, _, _, _, _, _, h⟩ := ppuRun_frame c s; rw [h]
@[simp] theorem ppuRun_apu : (ppuRun c s).apu = s.apu := by
  obtain ⟨_, _, _, _, _, _, _, _, h⟩ := ppuRun_frame c s; rw [h]
@[simp] theorem ppuRun_cart : (ppuRun c s).cart = s.cart := by
  obtain ⟨_, _, _, _, _, _, _, _, h⟩ := ppuRun_frame c s; rw [h]
@[simp] theorem ppuRun_cfg : (ppuRun c s).cfg = s.cfg := by
  obtain ⟨_, _, _, _, _, _, _, _, h⟩ := ppuRun_frame c s; rw [h]
@[simp] theorem ppuRun_irqLine : (ppuRun c s).irqLine = s.irqLine := by
  obtain ⟨_, _, _, _, _, _, _, _, h⟩ := ppuRun_frame c s; rw [h]
@[simp] theorem ppuRun_padInput : (ppuRun c s).padInput = s.padInput := by
  obtain ⟨_, _, _, _, _, _, _, _, h⟩ := ppuRun_frame c s; rw [h]
end ppuRun

/-- The length clock changes the length alone (47_apu_channels.md R381). -/
theorem pulseLengthClock_eq (p : Pulse) :
    pulseLengthClock p =
      { p with length := if p.halt = true ∨ p.length = 0x00#8 then p.length else p.length - 1#8 } := by
  obtain ⟨_, halt, _, _, length, _, _, _, _, _, _, _⟩ := p
  cases halt <;> by_cases h : length = 0x00#8 <;> simp [pulseLengthClock, h]

/-- The triangle's length clock changes its length alone (47_apu_channels.md R381). -/
theorem triLengthClock_eq (u : Apu) :
    triLengthClock u = { u with
      triLength := if u.triCtrl.getLsbD 7 = true ∨ u.triLength = 0x00#8 then u.triLength
        else u.triLength - 1#8 } := by
  unfold triLengthClock
  cases h1 : u.triCtrl.getLsbD 7
  · by_cases h2 : u.triLength = 0x00#8
    · simp only [h2, bne_self_eq_false, Bool.and_false, or_true, if_true]; rw [if_neg (by simp), ← h2]
    · simp [h2]
  · simp

/-- `n` half-frames in a row. -/
def halfFrames : Nat → Apu → Apu
  | 0, u => u
  | n + 1, u => halfFrames n (halfFrame u)

theorem triLengthClock_acc (u : Apu) : (triLengthClock u).acc = u.acc := by
  unfold triLengthClock; split <;> rfl

@[simp] theorem halfFrame_acc (u : Apu) : (halfFrame u).acc = u.acc := triLengthClock_acc _

/-- The APU with another cycle accumulator. -/
def Apu.setAcc (u : Apu) (a : Nat) : Apu := { u with acc := a }

@[simp] theorem Apu.setAcc_acc (u : Apu) (a : Nat) : (u.setAcc a).acc = a := rfl
@[simp] theorem Apu.setAcc_setAcc (u : Apu) (a b : Nat) : (u.setAcc a).setAcc b = u.setAcc b := rfl

/-- A half-frame neither reads nor writes the cycle accumulator. -/
theorem halfFrame_setAcc (u : Apu) (a : Nat) : halfFrame (u.setAcc a) = (halfFrame u).setAcc a := by
  unfold halfFrame triLengthClock
  rw [apply_ite (fun v => Apu.setAcc v a)]
  rfl

theorem halfFrames_setAcc (n : Nat) (u : Apu) (a : Nat) : halfFrames n (u.setAcc a) = (halfFrames n u).setAcc a := by
  induction n generalizing u with
  | zero => rfl
  | succ n ih => simp only [halfFrames, halfFrame_setAcc, ih]

theorem halfFrames_add (m n : Nat) (u : Apu) : halfFrames (m + n) u = halfFrames n (halfFrames m u) := by
  induction m generalizing u with
  | zero => rw [Nat.zero_add]; rfl
  | succ m ih => rw [Nat.succ_add]; exact ih (halfFrame u)

@[simp] theorem halfFrames_acc (n : Nat) (u : Apu) : (halfFrames n u).acc = u.acc := by
  induction n generalizing u with
  | zero => rfl
  | succ n ih => rw [halfFrames, ih, halfFrame_acc]

/-- With enough fuel the loop performs one half-frame for every whole one in the accumulator. -/
theorem halfFrameLoop_eq {h : Nat} (hh : 0 < h) (fuel : Nat) (u : Apu) (hf : u.acc / h ≤ fuel) :
    halfFrameLoop h fuel u = (halfFrames (u.acc / h) u).setAcc (u.acc % h) := by
  induction fuel generalizing u with
  | zero =>
    have h0 : u.acc / h = 0 := Nat.le_zero.1 hf
    have h1 : u.acc < h := by rcases (Nat.div_eq_zero_iff).1 h0 with h' | h' <;> omega
    rw [h0, Nat.mod_eq_of_lt h1]; rfl
  | succ fuel ih =>
    unfold halfFrameLoop
    split
    · next hd => rw [Nat.div_eq_of_lt hd, Nat.mod_eq_of_lt hd]; rfl
    · next hd =>
      have e : u.acc / h = (u.acc - h) / h + 1 := by
        rw [← Nat.add_div_right _ hh]; congr 1; omega
      have em : (u.acc - h) % h = u.acc % h := (Nat.mod_eq_sub_mod (by omega)).symm
      have es : halfFrame { u with acc := u.acc - h } = (halfFrame u).setAcc (u.acc - h) := halfFrame_setAcc u _
      have hle : (u.acc - h) / h ≤ fuel := by
        generalize (u.acc - h) / h = q at e; omega
      rw [es, ih _ (by rw [Apu.setAcc_acc]; exact hle), Apu.setAcc_acc, em, halfFrames_setAcc, Apu.setAcc_setAcc, e,
        halfFrames]

/-- `APU.run` in one line: one half-frame for every whole one in the accumulator, the remainder kept. -/
theorem apuRun_eq {h : Nat} (hh : 0 < h) (c : Nat) (u : Apu) :
    apuRun h c u = (halfFrames ((u.acc + c) / h) u).setAcc ((u.acc + c) % h) := by
  have e := halfFrameLoop_eq hh ((u.acc + c) / h) (u.setAcc (u.acc + c)) (Nat.le_refl _)
  rw [halfFrames_setAcc] at e
  exact e

end Sys2Proof.Machine
end

