-- ==== Sys2Proof/Laws/Invariant.lean ====
section
/-! SUPPORT. Every shared operation keeps the memories canonical, the counters in range and the channels within their
bounds. -/

namespace Sys2Proof.Machine

/-- The bounds of the APU that no half-frame length enters (10_state.md R50, R51). -/
structure ChannelsWf (u : Apu) : Prop where
  pulse1 : PulseWf u.pulse1
  pulse2 : PulseWf u.pulse2
  triBound : u.triLength.toNat ≤ 254
  triSilent : u.triEnabled = false → u.triLength = 0x00#8
  noiseReg : u.noiseReg.wf 4 = true

/-- The machine's invariant field by field, whatever additional cycles the step in progress has. -/
structure Kept (s : State) : Prop where
  config : s.cfg.wf = true
  cart : s.cart.wf = true
  ram : s.ram.wf 0x0800 = true
  ntRam : s.ppu.ntRam.wf 2048 = true
  palette : s.ppu.palette.wf 32 = true
  chr : s.ppu.chr.wf 8192 = true
  oam : s.ppu.oam.wf 256 = true
  background : s.ppu.bgLayer.wf = true
  sprites : s.ppu.spriteLayer.wf = true
  dot : s.ppu.dot ≤ 340
  line : s.ppu.line ≤ 261
  acc : s.apu.acc < s.cfg.apuHalfFrame
  channels : ChannelsWf s.apu
  chrRom : ∀ rom, s.cart.chr = some rom → s.ppu.chr = rom
  unused : ∀ i ∈ [0x10, 0x14, 0x18, 0x1C], s.ppu.palette.read i = 0x00#8

theorem Inv.kept {s : State} (h : Inv s) : Kept s :=
  ⟨h.config, h.memories.cart, h.memories.ram, h.memories.ntRam, h.memories.palette, h.memories.chr, h.memories.oam,
    h.layers.background, h.layers.sprites, h.counters.dot, h.counters.line, h.apu.acc,
    ⟨h.apu.pulse1, h.apu.pulse2, h.apu.triBound, h.apu.triSilent, h.memories.noiseReg⟩, h.chrRom, h.palette⟩

theorem Kept.inv {s : State} (h : Kept s) (e : s.extra = 0) : Inv s :=
  ⟨h.config, ⟨h.ram, h.ntRam, h.palette, h.chr, h.oam, h.channels.noiseReg, h.cart⟩, ⟨h.background, h.sprites⟩,
    ⟨h.dot, h.line⟩, ⟨h.acc, h.channels.pulse1, h.channels.pulse2, h.channels.triBound, h.channels.triSilent⟩,
    h.chrRom, h.unused, e⟩

/-- `Kept` looks at these fields only. -/
theorem Kept.of_eq {s t : State} (h : Kept s) (cfg : t.cfg = s.cfg) (cart : t.cart = s.cart) (ram : t.ram = s.ram)
    (nt : t.ppu.ntRam = s.ppu.ntRam) (pal : t.ppu.palette = s.ppu.palette) (chr : t.ppu.chr = s.ppu.chr)
    (oam : t.ppu.oam = s.ppu.oam) (bg : t.ppu.bgLayer = s.ppu.bgLayer) (sp : t.ppu.spriteLayer = s.ppu.spriteLayer)
    (dot : t.ppu.dot = s.ppu.dot) (line : t.ppu.line = s.ppu.line) (apu : t.apu = s.apu) : Kept t := by
  obtain ⟨_, _, _, _, _, _, _, _, _, _, _, _, _, _, _⟩ := h
  constructor <;> simp only [cfg, cart, ram, nt, pal, chr, oam, bg, sp, dot, line, apu] <;> assumption

/-! ### Bus -/

theorem Kept.memRead {s : State} (h : Kept s) (a : Word) : Kept (memRead a s).2 := by
  obtain ⟨_, _, _, _, _, e⟩ := memRead_frame a s
  rw [e]; exact h.of_eq rfl rfl rfl rfl rfl rfl rfl rfl rfl rfl rfl rfl

theorem Kept.setRam {s : State} (h : Kept s) {a : Nat} (ha : a < 0x0800) (v : Byte) :
    Kept { s with ram := s.ram.write a v } := { h with ram := Memory.write_wf v ha h.ram }

theorem Kept.setOam {s : State} (h : Kept s) {a : Nat} (ha : a < 256) (v : Byte) :
    Kept { s with ppu.oam := s.ppu.oam.write a v } := { h with oam := Memory.write_wf v ha h.oam }

theorem ntIndex_lt (mir : Mirroring) (a : Nat) : ntIndex mir a < 2048 := by
  unfold ntIndex
  cases mir <;> simp only <;> omega

theorem palIndex_lt (a : Nat) : palIndex a < 32 := by
  unfold palIndex
  simp only
  split <;> omega

theorem palIndex_not_unused (a : Nat) : ∀ i ∈ [0x10, 0x14, 0x18, 0x1C], i ≠ palIndex a := by
  intro i hi
  simp only [List.mem_cons, List.not_mem_nil, or_false] at hi
  unfold palIndex
  simp only
  split <;> omega

/-- A PPU write keeps the invariant: it stays inside its memory, misses the unused palette cells and leaves character
ROM alone (20_memory.md R91, R95). -/
theorem Kept.ppuWrite {s : State} (h : Kept s) (a : Nat) (v : Byte) :
    Kept { s with ppu := ppuWrite s.cart s.ppu a v } := by
  unfold Machine.ppuWrite
  simp only
  split
  · next h1 =>
    split
    · next hc =>
      exact { h with chr := Memory.write_wf v (by omega) h.chr, chrRom := fun rom hr => absurd (hc.symm.trans hr) nofun }
    · exact h
  · split
    · exact { h with ntRam := Memory.write_wf v (ntIndex_lt _ _) h.ntRam }
    · exact { h with
        palette := Memory.write_wf v (palIndex_lt _) h.palette
        unused := fun i hi => (Memory.read_write_other _ v (palIndex_not_unused _ i hi)).trans (h.unused i hi) }

theorem Kept.ppuRegWrite {s : State} (h : Kept s) (n : Nat) (v : Byte) :
    Kept { s with ppu := ppuRegWrite s.cart s.ppu n v } := by
  unfold Machine.ppuRegWrite
  split
  · exact h.of_eq rfl rfl rfl rfl rfl rfl rfl rfl rfl rfl rfl rfl
  · exact h.of_eq rfl rfl rfl rfl rfl rfl rfl rfl rfl rfl rfl rfl
  · exact h.of_eq rfl rfl rfl rfl rfl rfl rfl rfl rfl rfl rfl rfl
  · exact (h.setOam s.ppu.oamAddr.isLt v).of_eq rfl rfl rfl rfl rfl rfl rfl rfl rfl rfl rfl rfl
  · unfold ppuScrollWrite
    split <;> exact h.of_eq rfl rfl rfl rfl rfl rfl rfl rfl rfl rfl rfl rfl
  · unfold ppuAddrWrite
    split <;> exact h.of_eq rfl rfl rfl rfl rfl rfl rfl rfl rfl rfl rfl rfl
  · exact (h.ppuWrite s.ppu.vramAddr.toNat v).of_eq rfl rfl rfl rfl rfl rfl rfl rfl rfl rfl rfl rfl
  · exact h

theorem Kept.oamDma {s : State} (h : Kept s) (page : Byte) : Kept (oamDma page s) := by
  have loop : ∀ (l : List Nat) (s : State), Kept s → Kept (oamDmaLoop page l s) := by
    intro l
    induction l with
    | nil => exact fun _ h => h
    | cons i rest ih =>
      intro s h
      exact ih _ ((h.memRead _).setOam (Nat.mod_lt _ (by decide)) _)
  exact (loop _ s h).of_eq rfl rfl rfl rfl rfl rfl rfl rfl rfl rfl rfl rfl

/-! ### APU -/

theorem lengthOf_le (v : Byte) : (lengthOf v).toNat ≤ 254 := by revert v; decide +kernel

theorem PulseWf.write {p : Pulse} (h : PulseWf p) (n : Nat) (v : Byte) : PulseWf (pulseWrite p n v) := by
  unfold pulseWrite
  split
  · exact ⟨h.bound, h.silent⟩
  · exact ⟨h.bound, h.silent⟩
  · exact ⟨h.bound, h.silent⟩
  · constructor
    · simp only
      split
      · exact lengthOf_le v
      · exact h.bound
    · intro he
      have he : p.enabled = false := he
      simp only [he]
      exact h.silent he

theorem PulseWf.enable {p : Pulse} (h : PulseWf p) (on : Bool) : PulseWf (pulseEnable p on) := by
  cases on
  · exact ⟨Nat.zero_le 254, fun _ => rfl⟩
  · exact ⟨h.bound, fun e => absurd e (by decide : ¬true = false)⟩

theorem sub_one_le (l : Byte) : (l - 1#8).toNat ≤ 254 ∨ l = 0x00#8 := by revert l; decide +kernel

theorem PulseWf.lengthClock {p : Pulse} (h : PulseWf p) : PulseWf (pulseLengthClock p) := by
  unfold pulseLengthClock
  split
  · next hc =>
    have hn : p.length ≠ 0x00#8 := by
      simp only [Bool.and_eq_true, bne_iff_ne] at hc; exact hc.2
    exact ⟨(sub_one_le p.length).resolve_right hn, fun e => absurd (h.silent e) hn⟩
  · exact h

/-- What a sweep clock can change: period, divider, reload request (47_apu_channels.md R382). -/
theorem pulseSweepClock_frame (p : Pulse) :
    ∃ period div reload, pulseSweepClock p = { p with period := period, swDiv := div, swReload := reload } := by
  unfold pulseSweepClock
  extract_lets p1
  have h : ∃ period, p1 = { p with period := period } := by
    by_cases hs : sweepActs p = true
    · exact ⟨BitVec.ofNat 11 (sweepTarget p), if_pos hs⟩
    · exact ⟨p.period, if_neg hs⟩
  obtain ⟨period, h⟩ := h
  split
  · exact ⟨period, _, _, by rw [h]⟩
  · exact ⟨period, _, _, by rw [h]⟩

theorem PulseWf.sweepClock {p : Pulse} (h : PulseWf p) : PulseWf (pulseSweepClock p) := by
  obtain ⟨_, _, _, e⟩ := pulseSweepClock_frame p
  rw [e]; exact ⟨h.bound, h.silent⟩

theorem ChannelsWf.write {u : Apu} (h : ChannelsWf u) (addr : Nat) (v : Byte) : ChannelsWf (apuWrite u addr v) := by
  unfold apuWrite
  split
  · exact { h with pulse1 := h.pulse1.write _ v }
  · split
    · exact { h with pulse2 := h.pulse2.write _ v }
    · split
      · exact ⟨h.pulse1, h.pulse2, h.triBound, h.triSilent, h.noiseReg⟩
      · split
        · exact ⟨h.pulse1, h.pulse2, h.triBound, h.triSilent, h.noiseReg⟩
        · split
          · refine ⟨h.pulse1, h.pulse2, ?_, fun e => ?_, h.noiseReg⟩
            · simp only
              split
              · exact lengthOf_le v
              · exact h.triBound
            · have e : u.triEnabled = false := e
              simp only [e]
              exact h.triSilent e
          · split
            · exact { h with noiseReg := Memory.write_wf v (by omega) h.noiseReg }
            · split
              · refine ⟨h.pulse1.enable _, h.pulse2.enable _, ?_, fun e => ?_, h.noiseReg⟩
                · simp only [apuEnableWrite]
                  split
                  · exact h.triBound
                  · decide
                · have e : v.getLsbD 2 = false := e
                  simp only [apuEnableWrite, e]
                  rfl
              · exact h

theorem ChannelsWf.halfFrame {u : Apu} (h : ChannelsWf u) : ChannelsWf (halfFrame u) := by
  have h1 := h.pulse1.lengthClock.sweepClock
  have h2 := h.pulse2.lengthClock.sweepClock
  unfold Machine.halfFrame triLengthClock
  split
  · next hc =>
    have hn : u.triLength ≠ 0x00#8 := by
      simp only [Bool.and_eq_true, bne_iff_ne] at hc; exact hc.2
    exact ⟨h1, h2, (sub_one_le u.triLength).resolve_right hn, fun e => absurd (h.triSilent e) hn, h.noiseReg⟩
  · exact ⟨h1, h2, h.triBound, h.triSilent, h.noiseReg⟩

theorem ChannelsWf.halfFrames {u : Apu} (h : ChannelsWf u) (n : Nat) : ChannelsWf (halfFrames n u) := by
  induction n generalizing u with
  | zero => exact h
  | succ n ih => exact ih h.halfFrame

theorem ChannelsWf.run {u : Apu} (h : ChannelsWf u) {k : Nat} (hk : 0 < k) (c : Nat) : ChannelsWf (apuRun k c u) := by
  rw [apuRun_eq hk]
  obtain ⟨p1, p2, b, s, n⟩ := h.halfFrames ((u.acc + c) / k)
  exact ⟨p1, p2, b, s, n⟩

theorem Kept.halfFrame_pos {s : State} (h : Kept s) : 0 < s.cfg.apuHalfFrame := Nat.lt_of_le_of_lt (Nat.zero_le _) h.acc

/-- Another APU state within its bounds keeps the invariant. -/
theorem Kept.setApu {s : State} (h : Kept s) {u : Apu} (hu : ChannelsWf u) (ha : u.acc < s.cfg.apuHalfFrame) :
    Kept { s with apu := u } := { h with acc := ha, channels := hu }

theorem Kept.apuRun {s : State} (h : Kept s) (c : Nat) :
    Kept { s with apu := apuRun s.cfg.apuHalfFrame c s.apu } := by
  refine h.setApu (h.channels.run h.halfFrame_pos c) ?_
  rw [apuRun_eq h.halfFrame_pos]
  exact Nat.mod_lt _ h.halfFrame_pos

/-- A bus write keeps the invariant. -/
theorem Kept.memWrite {s : State} (h : Kept s) (a : Word) (v : Byte) : Kept (memWrite a v s) := by
  unfold Machine.memWrite
  split
  · exact h.setRam (Nat.mod_lt _ (by decide)) v
  · split
    · exact h.ppuRegWrite _ v
    · split
      · unfold ioWrite
        split
        · exact h.oamDma v
        · split
          · exact h.of_eq rfl rfl rfl rfl rfl rfl rfl rfl rfl rfl rfl rfl
          · exact h.setApu (h.channels.write _ v) (by rw [apuWrite_acc]; exact h.acc)
      · exact h

/-! ### Stack, interrupts, fetch -/

theorem Kept.push {s : State} (h : Kept s) (v : Byte) : Kept (push v s) :=
  (h.memWrite _ v).of_eq rfl rfl rfl rfl rfl rfl rfl rfl rfl rfl rfl rfl

theorem Kept.pull {s : State} (h : Kept s) : Kept (pull s).2 := by
  rw [pull_eq]; exact h.of_eq rfl rfl rfl rfl rfl rfl rfl rfl rfl rfl rfl rfl

/-- Entering a handler keeps the invariant: it writes three bytes of work RAM and CPU registers. -/
theorem Kept.interrupt {s : State} (h : Kept s) (k : InterruptKind) : Kept (interrupt k s) := by
  have lt : ∀ b : Byte, 0x0100 + b.toNat < 0x0800 := fun b => by have := b.isLt; omega
  rw [interrupt_eq]
  exact (((h.setRam (lt s.sp) (hiByte s.pc)).setRam (lt (s.sp - 1#8)) (loByte s.pc)).setRam
    (lt (s.sp - 1#8 - 1#8)) (s.p.pack (decide (k = .brk)))).of_eq rfl rfl rfl rfl rfl rfl rfl rfl rfl rfl rfl rfl

theorem Kept.beginStep {s : State} (h : Kept s) : Kept (beginStep s) := by
  have h0 : Kept { s with extra := 0 } := h.of_eq rfl rfl rfl rfl rfl rfl rfl rfl rfl rfl rfl rfl
  unfold Machine.beginStep pollInterrupts
  split
  · have h1 : Kept { s with extra := 0, nmiPending := false } := h0.of_eq rfl rfl rfl rfl rfl rfl rfl rfl rfl rfl rfl rfl
    exact h1.interrupt .nmi
  · split
    · exact h0.interrupt .irq
    · exact h0

theorem Kept.fetchBytes {s : State} (h : Kept s) (n : Nat) : Kept (fetchBytes n s).2 := by
  induction n generalizing s with
  | zero => exact h
  | succ n ih =>
    have h1 : Kept (fetchByte s).2 := (h.memRead s.pc).of_eq rfl rfl rfl rfl rfl rfl rfl rfl rfl rfl rfl rfl
    exact ih h1

theorem Kept.fetchInstr {s : State} (h : Kept s) : Kept (fetchInstr s).after :=
  h.fetchBytes (operandCount (fetchByte s).1 + 1)

/-- Executing an instruction keeps the invariant. -/
theorem Kept.effect {s : State} (h : Kept s) (o : Op) (x : Operand) : Kept (effect o x s) := by
  have hx : ∀ x, Kept (operandByte x s).2 := by
    intro x
    obtain ⟨_, _, _, _, _, _, e⟩ := operandByte_frame x s
    rw [e]; exact h.of_eq rfl rfl rfl rfl rfl rfl rfl rfl rfl rfl rfl rfl
  have hm : ∀ g, Kept (modifyOperand g x s) := by
    intro g
    cases x with
    | mem f => exact ((h.memRead _).memWrite _ _).of_eq rfl rfl rfl rfl rfl rfl rfl rfl rfl rfl rfl rfl
    | _ => exact h.of_eq rfl rfl rfl rfl rfl rfl rfl rfl rfl rfl rfl rfl
  have hg : ∀ c, Kept (goIf c x s) := by
    intro c
    cases c <;> exact h.of_eq rfl rfl rfl rfl rfl rfl rfl rfl rfl rfl rfl rfl
  cases o
  case sta | stx | sty => exact h.memWrite _ _
  case inc | dec | asl | lsr | rol | ror => exact hm _
  case bpl | bmi | bvc | bvs | bcc | bcs | bne | beq => exact hg _
  case jmp =>
    cases x with
    | mem f =>
      obtain ⟨_, _, _, _, _, e⟩ := resolve_frame f s
      simp only [Machine.effect, jumpOperand, jumpTo, e]
      exact h.of_eq rfl rfl rfl rfl rfl rfl rfl rfl rfl rfl rfl rfl
    | _ => exact h
  case jsr =>
    cases x with
    | mem f =>
      obtain ⟨_, _, _, _, _, e⟩ := resolve_frame f s
      have h1 : Kept (resolve f s).after := by rw [e]; exact h.of_eq rfl rfl rfl rfl rfl rfl rfl rfl rfl rfl rfl rfl
      exact ((h1.push _).push _).of_eq rfl rfl rfl rfl rfl rfl rfl rfl rfl rfl rfl rfl
    | _ => exact h
  case rts => exact (h.pull).pull.of_eq rfl rfl rfl rfl rfl rfl rfl rfl rfl rfl rfl rfl
  case pha => exact h.push _
  case php => exact h.push _
  case pla => exact h.pull.of_eq rfl rfl rfl rfl rfl rfl rfl rfl rfl rfl rfl rfl
  case plp => exact h.pull.of_eq rfl rfl rfl rfl rfl rfl rfl rfl rfl rfl rfl rfl
  case brk =>
    simp only [Machine.effect]
    split
    · exact h
    · exact Kept.interrupt (s := { s with pc := s.pc + 1#16 }) (h.of_eq rfl rfl rfl rfl rfl rfl rfl rfl rfl rfl rfl rfl) .brk
  case rti =>
    simp only [Machine.effect, returnFromInterrupt_eq]
    exact h.of_eq rfl rfl rfl rfl rfl rfl rfl rfl rfl rfl rfl rfl
  all_goals first
    | exact (hx x).of_eq rfl rfl rfl rfl rfl rfl rfl rfl rfl rfl rfl rfl
    | exact h.of_eq rfl rfl rfl rfl rfl rfl rfl rfl rfl rfl rfl rfl

/-! ### Time -/

theorem Layer.draw_wf (cart : Cartridge) (l : Nat) (t attr x : Byte) (cells : List (Nat × Nat)) (u : Ppu)
    (h : u.spriteLayer.wf = true) :
    (cells.foldl (fun u rc => drawSpritePixel cart u l t attr x rc.1 rc.2) u).spriteLayer.wf = true := by
  induction cells generalizing u with
  | nil => exact h
  | cons rc rest ih =>
    refine ih _ ?_
    show (drawSpritePixel cart u l t attr x rc.1 rc.2).spriteLayer.wf = true
    unfold drawSpritePixel
    extract_lets fx fy px
    split
    · next hp =>
      refine Layer.insert_wf _ ?_ h
      have := hp.2.1
      have := hp.2.2
      simp only [layerKey, layerCells]; omega
    · exact h

theorem spriteMatch_wf (cart : Cartridge) (l i : Nat) (u : Ppu) (h : u.spriteLayer.wf = true) :
    (spriteMatch cart u l i).spriteLayer.wf = true := by
  have h1 : (if i = 0 then { u with sprite0Hit := true } else u).spriteLayer.wf = true := by split <;> exact h
  unfold spriteMatch
  extract_lets u1
  split
  · exact Layer.draw_wf cart l _ _ _ tileCells u1 h1
  · exact h1

theorem spriteScan_wf (cart : Cartridge) (l : Nat) (is : List Nat) (count : Nat) (u : Ppu)
    (h : u.spriteLayer.wf = true) : (spriteScan cart l is count u).spriteLayer.wf = true := by
  induction is generalizing count u with
  | nil => exact h
  | cons i rest ih =>
    unfold spriteScan
    split
    · exact ih count u h
    · split
      · exact h
      · exact ih _ _ (spriteMatch_wf cart l i u h)

theorem spriteScan_bgLayer (cart : Cartridge) (l : Nat) (is : List Nat) (count : Nat) (u : Ppu) :
    (spriteScan cart l is count u).bgLayer = u.bgLayer := by
  obtain ⟨_, _, _, h⟩ := spriteScan_frame cart l is count u
  rw [h]

/-- Rendering a visible line keeps both layers in canonical form. -/
theorem renderLine_wf (cart : Cartridge) (u : Ppu) {l : Nat} (hl : l ≤ 239) (hb : u.bgLayer.wf = true)
    (hs : u.spriteLayer.wf = true) :
    (renderLine cart u l).bgLayer.wf = true ∧ (renderLine cart u l).spriteLayer.wf = true := by
  unfold renderLine spriteLine
  rw [spriteScan_bgLayer]
  split
  · next h =>
    have h8 := h.1
    have hn : layerKey l 0 + 8 * 256 ≤ layerCells := by unfold layerKey layerCells; omega
    exact ⟨Layer.replaceRun_wf (fun k => bgPixelAt cart u (k / 256) (k % 256)) hn hb,
      spriteScan_wf cart l (List.range 64) 0 (renderBand cart u l) hs⟩
  · exact ⟨hb, spriteScan_wf cart l _ _ _ hs⟩

/-- A line end keeps the invariant. -/
theorem Kept.endLine {s : State} (h : Kept s) : Kept (endLine s) := by
  have hw : (Machine.endLine s).ppu.bgLayer.wf = true ∧ (Machine.endLine s).ppu.spriteLayer.wf = true := by
    have hb : s.ppu.bgLayer.wf = true := h.background
    have hs : s.ppu.spriteLayer.wf = true := h.sprites
    by_cases h1 : s.ppu.line ≤ 239
    · have h2 : ¬s.ppu.line + 1 = 241 := by omega
      have h3 : ¬s.ppu.line + 1 = 262 := by omega
      simp only [Machine.endLine, h1, h2, h3, if_true, if_false]
      exact renderLine_wf s.cart s.ppu h1 hb hs
    · by_cases h2 : s.ppu.line + 1 = 241
      · simp only [Machine.endLine, h1, h2, if_true, if_false]
        exact ⟨hb, hs⟩
      · by_cases h3 : s.ppu.line + 1 = 262
        · simp only [Machine.endLine, h1, h3, if_true, if_false]
          exact ⟨hb, rfl⟩
        · simp only [Machine.endLine, h1, h2, h3, if_false]
          exact ⟨hb, hs⟩
  have hl : (Machine.endLine s).ppu.line ≤ 261 := by
    have : s.ppu.line ≤ 261 := h.line
    rw [endLine_line]; split <;> omega
  obtain ⟨_, _, _, _, _, _, _, e⟩ := endLine_frame s
  rw [e] at hw hl ⊢
  exact { h with background := hw.1, sprites := hw.2, line := hl }

theorem Kept.endLines {s : State} (h : Kept s) (n : Nat) : Kept (endLines n s) := by
  induction n generalizing s with
  | zero => exact h
  | succ n ih => exact ih h.endLine

/-- PPU time keeps the invariant. -/
theorem Kept.ppuRun {s : State} (h : Kept s) (c : Nat) : Kept (ppuRun c s) := by
  rw [ppuRun_eq]
  have h0 : Kept { s with frameReady := false } := h.of_eq rfl rfl rfl rfl rfl rfl rfl rfl rfl rfl rfl rfl
  have hd : (s.ppu.dot + 3 * c) % 341 < 341 := Nat.mod_lt _ (by decide)
  exact { h0.endLines ((s.ppu.dot + 3 * c) / 341) with dot := Nat.le_of_lt_succ hd }

end Sys2Proof.Machine
end

