-- ==== Sys2Proof/Laws/Render.lean ====
section
/-! SUPPORT. Rendering cell by cell: what a band, a sprite pixel and the scan of a line leave in the two layers. -/

namespace Sys2Proof.Machine

/-! ### Reading a layer after a change of it -/

theorem sparseFind_append {α : Type} (l m : List (Nat × α)) (a : Nat) :
    sparseFind (l ++ m) a = (sparseFind l a).or (sparseFind m a) := by
  induction l with
  | nil => rfl
  | cons c t ih =>
    simp only [List.cons_append, sparseFind, ih]
    split <;> rfl

theorem sparseFind_filter {α : Type} (p : Nat → Bool) (l : List (Nat × α)) (a : Nat) :
    sparseFind (l.filter fun c => p c.1) a = if p a then sparseFind l a else none := by
  induction l with
  | nil => simp [sparseFind]
  | cons c t ih =>
    by_cases h : p c.1 = true
    · simp only [List.filter_cons, h, if_true, sparseFind, ih]
      by_cases e : a = c.1
      · subst e; simp [h]
      · simp [e]
    · rw [List.filter_cons_of_neg (by simpa using h), ih, sparseFind]
      by_cases e : a = c.1
      · subst e; simp [h]
      · simp [e]

theorem sparseFind_run {α : Type} (f : Nat → α) (lo a : Nat) : ∀ n s,
    sparseFind ((List.range' s n).map fun k => (lo + k, f (lo + k))) a =
      if lo + s ≤ a ∧ a < lo + s + n then some (f a) else none := by
  intro n
  induction n with
  | zero => intro s; rw [if_neg (by omega)]; rfl
  | succ n ih =>
    intro s
    simp only [List.range'_succ, List.map_cons, sparseFind, ih]
    by_cases e : a = lo + s
    · subst e; simp
    · simp only [e, if_false]
      congr 1
      simp only [eq_iff_iff]
      omega

/-- Overwriting a run of cells gives every cell of the run its new pixel and leaves every other cell alone. -/
theorem Layer.find_replaceRun {α : Type} (l : Layer α) (lo n a : Nat) (f : Nat → α) :
    sparseFind (l.replaceRun lo n f) a = if lo ≤ a ∧ a < lo + n then some (f a) else sparseFind l a := by
  unfold Layer.replaceRun
  rw [sparseFind_append, sparseFind_append, sparseFind_filter (fun k => decide (k < lo)),
    sparseFind_filter (fun k => decide (lo + n ≤ k)), List.range_eq_range', sparseFind_run]
  by_cases h1 : a < lo
  · have h2 : ¬lo ≤ a := by omega
    have h3 : ¬lo + n ≤ a := by omega
    simp [h1, h2, h3]
  · by_cases h2 : a < lo + n
    · have h3 : lo ≤ a := by omega
      simp [h1, h2, h3]
    · have h3 : lo + n ≤ a := by omega
      simp [h1, h2, h3]

/-- Two cells of the raster have the same key only if they are the same cell. -/
theorem layerKey_inj {y y' x x' : Nat} (hx : x < 256) (hx' : x' < 256) :
    layerKey y x = layerKey y' x' ↔ y = y' ∧ x = x' := by
  unfold layerKey; omega

/-! ### The layers -/

/-- What `RenderBand` leaves in a cell of the background layer (46_ppu_rendering_timing.md R335). -/
theorem renderBand_cell (cart : Cartridge) (u : Ppu) (l y x : Nat) (hx : x < 256) :
    (renderBand cart u l).bgLayer.cell y x =
      if l ≤ y ∧ y < l + 8 then some (bgPixelAt cart u y x) else u.bgLayer.cell y x := by
  have hk : layerKey y x / 256 = y ∧ layerKey y x % 256 = x := by unfold layerKey; omega
  have hc : (layerKey l 0 ≤ layerKey y x ∧ layerKey y x < layerKey l 0 + 8 * 256) = (l ≤ y ∧ y < l + 8) := by
    unfold layerKey; simp only [eq_iff_iff]; omega
  unfold renderBand Layer.cell
  rw [Layer.find_replaceRun, hk.1, hk.2]
  simp only [hc]

/-- What one pixel of a sprite leaves in a cell of the sprite layer (46_ppu_rendering_timing.md R341). -/
theorem drawSpritePixel_cell (cart : Cartridge) (u : Ppu) (l : Nat) (t attr x : Byte) (r c y z : Nat)
    (hy : y < 240) (hz : z < 256) :
    let px := tilePixel cart u (tableBase u.spriteTable) t.toNat (if attr.getLsbD 6 then 7 - c else c)
      (if attr.getLsbD 7 then 7 - r else r)
    (drawSpritePixel cart u l t attr x r c).spriteLayer.cell y z =
      if px ≠ 0 ∧ y = l + r ∧ z = x.toNat + c then
        some { colour := paletteColour cart u (0x3F10 + 4 * field attr 0 2 + px), behind := attr.getLsbD 5 }
      else u.spriteLayer.cell y z := by
  intro px
  unfold drawSpritePixel
  extract_lets fx fy px' pixel
  have hpx : px' = px := rfl
  rw [← hpx]
  by_cases h : px' ≠ 0 ∧ l + r ≤ 239 ∧ x.toNat + c ≤ 255
  · rw [if_pos h]
    by_cases e : y = l + r ∧ z = x.toNat + c
    · rw [if_pos ⟨h.1, e⟩, e.1, e.2]; exact sparseFind_insert_same _ _ _
    · rw [if_neg (fun k => e k.2)]
      exact sparseFind_insert_other _ _ (fun k => e ((layerKey_inj hz (by omega)).mp k))
  · rw [if_neg h, if_neg]
    exact fun k => h ⟨k.1, by omega, by omega⟩

/-- The entries that a scan with `count` matches so far still draws: the first matching ones, eight in all
(46_ppu_rendering_timing.md R340). -/
def spritesDrawn (u : Ppu) (l : Nat) (is : List Nat) (count : Nat) : List Nat :=
  (is.filter fun i => (u.oam.read (4 * i)).toNat == l).take (8 - count)

/-- Drawing OAM entry `i` on line `l`. -/
def drawEntry (cart : Cartridge) (l : Nat) (u : Ppu) (i : Nat) : Ppu :=
  drawSprite cart u l (u.oam.read (4 * i + 1)) (u.oam.read (4 * i + 2)) (u.oam.read (4 * i + 3))

/-- The PPU with the sprite-0 flag set to a value. -/
def Ppu.setHit (u : Ppu) (hit : Bool) : Ppu := { u with sprite0Hit := hit }

/-- Drawing a pixel reads no flag of the line. -/
theorem drawSpritePixel_setHit (cart : Cartridge) (u : Ppu) (hit : Bool) (l : Nat) (t attr x : Byte) (r c : Nat) :
    drawSpritePixel cart (u.setHit hit) l t attr x r c = (drawSpritePixel cart u l t attr x r c).setHit hit := by
  simp only [drawSpritePixel]
  rw [apply_ite (fun v => Ppu.setHit v hit)]
  rfl

theorem drawSprite_setHit (cart : Cartridge) (u : Ppu) (hit : Bool) (l : Nat) (t attr x : Byte) :
    drawSprite cart (u.setHit hit) l t attr x = (drawSprite cart u l t attr x).setHit hit := by
  unfold drawSprite
  generalize tileCells = cells
  induction cells generalizing u with
  | nil => rfl
  | cons rc rest ih => simp only [List.foldl_cons, drawSpritePixel_setHit, ih]

theorem drawEntry_setHit (cart : Cartridge) (u : Ppu) (hit : Bool) (l i : Nat) :
    drawEntry cart l (u.setHit hit) i = (drawEntry cart l u i).setHit hit :=
  drawSprite_setHit cart u hit l _ _ _

/-- Setting the sprite-0 flag first changes nothing of what a run of entries draws. -/
theorem drawEntries_setHit (cart : Cartridge) (u : Ppu) (hit : Bool) (l : Nat) (is : List Nat) :
    is.foldl (drawEntry cart l) (u.setHit hit) = (is.foldl (drawEntry cart l) u).setHit hit := by
  induction is generalizing u with
  | nil => rfl
  | cons i rest ih => simp only [List.foldl_cons, drawEntry_setHit, ih]

/-- What a matching entry does, in one line (46_ppu_rendering_timing.md R340, R345). -/
theorem spriteMatch_eq (cart : Cartridge) (u : Ppu) (l i : Nat) :
    spriteMatch cart u l i =
      (if u.spriteEnable then drawEntry cart l u i else u).setHit (u.sprite0Hit || decide (i = 0)) := by
  have h1 : (if i = 0 then { u with sprite0Hit := true } else u) = u.setHit (u.sprite0Hit || decide (i = 0)) := by
    by_cases h : i = 0 <;> simp [h, Ppu.setHit]
  unfold spriteMatch
  simp only [h1]
  by_cases h : u.spriteEnable = true
  · rw [if_pos (by exact h), if_pos h, ← drawEntry_setHit]; rfl
  · rw [if_neg (by exact h), if_neg h]

/-- What a scan leaves in the sprite layer: what the entries it draws leave, or the old layer with sprites disabled
(46_ppu_rendering_timing.md R340, R347). -/
theorem spriteScan_layer (cart : Cartridge) (l : Nat) (is : List Nat) (count : Nat) (u : Ppu) (hc : count ≤ 8) :
    (spriteScan cart l is count u).spriteLayer =
      if u.spriteEnable then ((spritesDrawn u l is count).foldl (drawEntry cart l) u).spriteLayer
      else u.spriteLayer := by
  induction is generalizing count u with
  | nil => simp [spriteScan, spritesDrawn]
  | cons i rest ih =>
    unfold spriteScan
    by_cases hm : (u.oam.read (4 * i)).toNat = l
    · rw [if_neg (not_not.mpr hm)]
      by_cases h8 : count = 8
      · simp [h8, spritesDrawn]
      · have hd : spritesDrawn u l (i :: rest) count = i :: spritesDrawn u l rest (count + 1) := by
          have : 8 - count = 8 - (count + 1) + 1 := by omega
          simp [spritesDrawn, hm, this]
        obtain ⟨hit, sl, hf⟩ := spriteMatch_frame cart u l i
        have he : (spriteMatch cart u l i).spriteEnable = u.spriteEnable := by rw [hf]; rfl
        have hs : spritesDrawn (spriteMatch cart u l i) l rest (count + 1) = spritesDrawn u l rest (count + 1) := by
          rw [hf]; rfl
        rw [if_neg h8, ih _ _ (by omega), he, hs, hd, spriteMatch_eq]
        by_cases hen : u.spriteEnable = true
        · rw [if_pos hen, if_pos hen, if_pos hen, drawEntries_setHit]; rfl
        · rw [if_neg hen, if_neg hen, if_neg hen]; rfl
    · have hd : spritesDrawn u l (i :: rest) count = spritesDrawn u l rest count := by simp [spritesDrawn, hm]
      rw [if_pos hm, ih _ _ hc, hd]

end Sys2Proof.Machine
end

