-- ==== Sys2Proof/Laws/Step.lean ====
section
/-! SUPPORT. What a step can do, said once: fetch, one instruction, the end of the step; and what of the counters and
the configuration each of these leaves alone. -/

namespace Sys2Proof.Machine

/-- What fetching bytes can change: what bus reads can, and PC (30_encoding.md R126). -/
theorem fetchBytes_frame (n : Nat) (s : State) :
    ∃ vb w rb va pad, (fetchBytes n s).2 =
      { s with ppu := { s.ppu with vblank := vb, w := w, readBuffer := rb, vramAddr := va }, pad := pad,
               pc := s.pc + BitVec.ofNat 16 n } := by
  induction n generalizing s with
  | zero => exact ⟨s.ppu.vblank, s.ppu.w, s.ppu.readBuffer, s.ppu.vramAddr, s.pad, by simp [fetchBytes]⟩
  | succ n ih =>
    obtain ⟨_, _, _, _, _, h⟩ := memRead_frame s.pc s
    obtain ⟨vb, w, rb, va, pad, h'⟩ := ih (fetchByte s).2
    refine ⟨vb, w, rb, va, pad, ?_⟩
    have e : s.pc + BitVec.ofNat 16 (n + 1) = s.pc + 1#16 + BitVec.ofNat 16 n := by
      rw [BitVec.ofNat_add, BitVec.add_assoc, BitVec.add_comm (BitVec.ofNat 16 n)]
    have e1 : (fetchByte s).2 = { (memRead s.pc s).2 with pc := s.pc + 1#16 } := rfl
    show (fetchBytes n (fetchByte s).2).2 = _
    rw [h', e1, h, e]

/-- Fetching an instruction is fetching its opcode byte and as many more as the opcode asks for. -/
theorem fetchInstr_after (s : State) :
    (fetchInstr s).after = (fetchBytes (operandCount (fetchByte s).1 + 1) s).2 := rfl

/-- What an interrupt poll can change (60_exceptions.md R440). -/
theorem beginStep_frame (s : State) :
    ∃ nmi ram sp p pc, beginStep s = { s with extra := 0, nmiPending := nmi, ram := ram, sp := sp, p := p, pc := pc } := by
  unfold beginStep pollInterrupts
  split
  · rw [interrupt_eq]; exact ⟨_, _, _, _, _, rfl⟩
  · split
    · rw [interrupt_eq]; exact ⟨s.nmiPending, _, _, _, _, rfl⟩
    · exact ⟨s.nmiPending, s.ram, s.sp, s.p, s.pc, rfl⟩

/-- A step that answers a next state ran one decoded instruction, and then time (48_sync_dma_joypad.md R400). -/
theorem step_next {s t : State} (h : step s = .next t) :
    ∃ i, (fetchInstr (beginStep s)).instr = some i ∧
      t = endStep i.opcode (effect i.op i.operand (fetchInstr (beginStep s)).after) := by
  unfold step at h
  simp only [exec_eq] at h
  split at h
  · cases h
  · next i hi => exact ⟨i, hi, (Host.Outcome.next.inj h).symm⟩

/-- The end of a step: PPU time and APU time do not read each other (48_sync_dma_joypad.md R400). -/
theorem endStep_eq (op : Byte) (s : State) :
    endStep op s =
      { ppuRun (stepCycles op s) { s with totalCycles := s.totalCycles + stepCycles op s, extra := 0 } with
        apu := apuRun s.cfg.apuHalfFrame (stepCycles op s) s.apu } := by
  obtain ⟨_, _, _, _, _, _, _, _, h⟩ := ppuRun_frame (stepCycles op s)
    { s with totalCycles := s.totalCycles + stepCycles op s, extra := 0 }
  simp only [endStep, h]

/-- The counters of time, the configuration and the inputs are the same. -/
structure SameTime (s t : State) : Prop where
  totalCycles : t.totalCycles = s.totalCycles
  acc : t.apu.acc = s.apu.acc
  dot : t.ppu.dot = s.ppu.dot
  line : t.ppu.line = s.ppu.line
  cart : t.cart = s.cart
  cfg : t.cfg = s.cfg
  irqLine : t.irqLine = s.irqLine
  padInput : t.padInput = s.padInput

theorem SameTime.trans {s t u : State} (h : SameTime s t) (k : SameTime t u) : SameTime s u :=
  ⟨k.totalCycles.trans h.totalCycles, k.acc.trans h.acc, k.dot.trans h.dot, k.line.trans h.line,
    k.cart.trans h.cart, k.cfg.trans h.cfg, k.irqLine.trans h.irqLine, k.padInput.trans h.padInput⟩

theorem beginStep_time (s : State) : SameTime s (beginStep s) := by
  obtain ⟨_, _, _, _, _, h⟩ := beginStep_frame s
  rw [h]; constructor <;> rfl

theorem fetchInstr_time (s : State) : SameTime s (fetchInstr s).after := by
  obtain ⟨_, _, _, _, _, h⟩ := fetchBytes_frame (operandCount (fetchByte s).1 + 1) s
  rw [fetchInstr_after, h]; constructor <;> rfl

/-- No instruction moves the counters of time (20_memory.md R101). -/
theorem effect_time (o : Op) (x : Operand) (s : State) : SameTime s (effect o x s) := by
  cases o
  case sta | stx | sty => constructor <;> simp [effect]
  case inc | dec | asl | lsr | rol | ror =>
    cases x with
    | mem f => constructor <;> simp [effect, modifyOperand]
    | _ => constructor <;> rfl
  case bpl | bmi | bvc | bvs | bcc | bcs | bne | beq => constructor <;> simp only [effect, goIf] <;> split <;> rfl
  case jmp =>
    cases x with
    | mem f =>
      obtain ⟨_, _, _, _, _, e⟩ := resolve_frame f s
      constructor <;> simp only [effect, jumpOperand, jumpTo, e]
    | _ => constructor <;> rfl
  case jsr =>
    cases x with
    | mem f =>
      obtain ⟨_, _, _, _, _, e⟩ := resolve_frame f s
      constructor <;> simp only [effect, callOperand, callTo, e, push_eq]
    | _ => constructor <;> rfl
  case rts => simp only [effect, returnFromCall, pull_eq]; constructor <;> rfl
  case pha | php => simp only [effect, push_eq]; constructor <;> rfl
  case pla | plp => simp only [effect, loadA, pull_eq]; constructor <;> rfl
  case brk =>
    simp only [effect]
    split
    · constructor <;> rfl
    · simp only [interrupt_eq]; constructor <;> rfl
  case rti => simp only [effect, returnFromInterrupt_eq]; constructor <;> rfl
  all_goals
    simp only [effect, loadA, loadX, loadY, addA, subA, andA, orA, xorA, compareA, compareX, compareY, testBits, putA,
      putX, putY]
    obtain ⟨_, _, _, _, _, _, e⟩ := operandByte_frame x s
    constructor <;> simp [e]

end Sys2Proof.Machine
end

