-- ==== Sys2Proof/Tests/Slice0.lean ====
section
/-! SUPPORT. The model's own tests: ill-formed forms are refused, the words of the opcode map decode to their
instructions, one step of each instruction, and a state and operands that meet the hypotheses of each statement.
Expected values are those of 95_test_vectors.md and of the cited rules, not the model's answers. -/

namespace Sys2Proof.Tests

-- One theorem at a time: checked side by side, this many would need more memory than the sandbox gives.
set_option Elab.async false

open Sys2Proof.Machine

/-! ### WellFormed refuses what the opcode map has no opcode for (30_encoding.md R142) -/

theorem test_wf_no_store_immediate : (Form.mk .sta (.imm 0x12#8)).wellFormed = false := by decide
theorem test_wf_zero_page_x_only_with_its_operations : (Form.mk .ldx (.mem (.zpx 0x12#8))).wellFormed = false := by decide
theorem test_wf_zero_page_y_only_ldx_stx : (Form.mk .lda (.mem (.zpy 0x12#8))).wellFormed = false := by decide
theorem test_wf_indirect_only_jmp : (Form.mk .jsr (.mem (.ind 0x1234#16))).wellFormed = false := by decide
theorem test_wf_relative_only_branches : (Form.mk .jmp (.mem (.rel 0x12#8))).wellFormed = false := by decide
theorem test_wf_accumulator_only_shifts : (Form.mk .inc .acc).wellFormed = false := by decide
theorem test_wf_implied_needs_no_operand : (Form.mk .tax (.mem (.abs 0x1234#16))).wellFormed = false := by decide
theorem test_wf_operand_not_left_out : (Form.mk .bit .imp).wellFormed = false := by decide
theorem test_wf_no_store_absolute_y : (Form.mk .stx (.mem (.aby 0x1234#16))).wellFormed = false := by decide
theorem test_wf_no_bit_immediate : (Form.mk .bit (.imm 0x12#8)).wellFormed = false := by decide
theorem test_wf_accepts : (Form.mk .stx (.mem (.zpy 0x12#8))).wellFormed = true := by decide

/-! ### Every opcode, written bit by bit as the encodings of spec/opcode_table.json have it -/

theorem test_decode_load_and_store_1 :
    decode [0b10100001#8, 0x34#8] = .ok (.ldaIzx 0x34#8) [] ∧
    decode [0b10100101#8, 0x34#8] = .ok (.ldaZp 0x34#8) [] ∧
    decode [0b10101001#8, 0x34#8] = .ok (.ldaImm 0x34#8) [] ∧
    decode [0b10101101#8, 0x34#8, 0x12#8] = .ok (.ldaAbs 0x1234#16) [] ∧
    decode [0b10110001#8, 0x34#8] = .ok (.ldaIzy 0x34#8) [] ∧
    decode [0b10110101#8, 0x34#8] = .ok (.ldaZpx 0x34#8) [] ∧
    decode [0b10111001#8, 0x34#8, 0x12#8] = .ok (.ldaAby 0x1234#16) [] ∧
    decode [0b10111101#8, 0x34#8, 0x12#8] = .ok (.ldaAbx 0x1234#16) [] ∧
    decode [0b10100010#8, 0x34#8] = .ok (.ldxImm 0x34#8) [] ∧
    decode [0b10100110#8, 0x34#8] = .ok (.ldxZp 0x34#8) [] ∧
    decode [0b10101110#8, 0x34#8, 0x12#8] = .ok (.ldxAbs 0x1234#16) [] ∧
    decode [0b10110110#8, 0x34#8] = .ok (.ldxZpy 0x34#8) [] ∧
    decode [0b10111110#8, 0x34#8, 0x12#8] = .ok (.ldxAby 0x1234#16) [] ∧
    decode [0b10100000#8, 0x34#8] = .ok (.ldyImm 0x34#8) [] ∧
    decode [0b10100100#8, 0x34#8] = .ok (.ldyZp 0x34#8) [] ∧
    decode [0b10101100#8, 0x34#8, 0x12#8] = .ok (.ldyAbs 0x1234#16) [] := by
  decide +kernel

theorem test_decode_load_and_store_2 :
    decode [0b10110100#8, 0x34#8] = .ok (.ldyZpx 0x34#8) [] ∧
    decode [0b10111100#8, 0x34#8, 0x12#8] = .ok (.ldyAbx 0x1234#16) [] ∧
    decode [0b10000001#8, 0x34#8] = .ok (.staIzx 0x34#8) [] ∧
    decode [0b10000101#8, 0x34#8] = .ok (.staZp 0x34#8) [] ∧
    decode [0b10001101#8, 0x34#8, 0x12#8] = .ok (.staAbs 0x1234#16) [] ∧
    decode [0b10010001#8, 0x34#8] = .ok (.staIzy 0x34#8) [] ∧
    decode [0b10010101#8, 0x34#8] = .ok (.staZpx 0x34#8) [] ∧
    decode [0b10011001#8, 0x34#8, 0x12#8] = .ok (.staAby 0x1234#16) [] ∧
    decode [0b10011101#8, 0x34#8, 0x12#8] = .ok (.staAbx 0x1234#16) [] ∧
    decode [0b10000110#8, 0x34#8] = .ok (.stxZp 0x34#8) [] ∧
    decode [0b10001110#8, 0x34#8, 0x12#8] = .ok (.stxAbs 0x1234#16) [] ∧
    decode [0b10010110#8, 0x34#8] = .ok (.stxZpy 0x34#8) [] ∧
    decode [0b10000100#8, 0x34#8] = .ok (.styZp 0x34#8) [] ∧
    decode [0b10001100#8, 0x34#8, 0x12#8] = .ok (.styAbs 0x1234#16) [] ∧
    decode [0b10010100#8, 0x34#8] = .ok (.styZpx 0x34#8) [] := by
  decide +kernel

theorem test_decode_transfer :
    decode [0b10101010#8] = .ok .tax [] ∧
    decode [0b10101000#8] = .ok .tay [] ∧
    decode [0b10001010#8] = .ok .txa [] ∧
    decode [0b10011000#8] = .ok .tya [] ∧
    decode [0b10111010#8] = .ok .tsx [] ∧
    decode [0b10011010#8] = .ok .txs [] := by
  decide +kernel

theorem test_decode_add_subtract :
    decode [0b01100001#8, 0x34#8] = .ok (.adcIzx 0x34#8) [] ∧
    decode [0b01100101#8, 0x34#8] = .ok (.adcZp 0x34#8) [] ∧
    decode [0b01101001#8, 0x34#8] = .ok (.adcImm 0x34#8) [] ∧
    decode [0b01101101#8, 0x34#8, 0x12#8] = .ok (.adcAbs 0x1234#16) [] ∧
    decode [0b01110001#8, 0x34#8] = .ok (.adcIzy 0x34#8) [] ∧
    decode [0b01110101#8, 0x34#8] = .ok (.adcZpx 0x34#8) [] ∧
    decode [0b01111001#8, 0x34#8, 0x12#8] = .ok (.adcAby 0x1234#16) [] ∧
    decode [0b01111101#8, 0x34#8, 0x12#8] = .ok (.adcAbx 0x1234#16) [] ∧
    decode [0b11100001#8, 0x34#8] = .ok (.sbcIzx 0x34#8) [] ∧
    decode [0b11100101#8, 0x34#8] = .ok (.sbcZp 0x34#8) [] ∧
    decode [0b11101001#8, 0x34#8] = .ok (.sbcImm 0x34#8) [] ∧
    decode [0b11101101#8, 0x34#8, 0x12#8] = .ok (.sbcAbs 0x1234#16) [] ∧
    decode [0b11110001#8, 0x34#8] = .ok (.sbcIzy 0x34#8) [] ∧
    decode [0b11110101#8, 0x34#8] = .ok (.sbcZpx 0x34#8) [] ∧
    decode [0b11111001#8, 0x34#8, 0x12#8] = .ok (.sbcAby 0x1234#16) [] ∧
    decode [0b11111101#8, 0x34#8, 0x12#8] = .ok (.sbcAbx 0x1234#16) [] := by
  decide +kernel

theorem test_decode_logic_1 :
    decode [0b00100001#8, 0x34#8] = .ok (.andIzx 0x34#8) [] ∧
    decode [0b00100101#8, 0x34#8] = .ok (.andZp 0x34#8) [] ∧
    decode [0b00101001#8, 0x34#8] = .ok (.andImm 0x34#8) [] ∧
    decode [0b00101101#8, 0x34#8, 0x12#8] = .ok (.andAbs 0x1234#16) [] ∧
    decode [0b00110001#8, 0x34#8] = .ok (.andIzy 0x34#8) [] ∧
    decode [0b00110101#8, 0x34#8] = .ok (.andZpx 0x34#8) [] ∧
    decode [0b00111001#8, 0x34#8, 0x12#8] = .ok (.andAby 0x1234#16) [] ∧
    decode [0b00111101#8, 0x34#8, 0x12#8] = .ok (.andAbx 0x1234#16) [] ∧
    decode [0b00000001#8, 0x34#8] = .ok (.oraIzx 0x34#8) [] ∧
    decode [0b00000101#8, 0x34#8] = .ok (.oraZp 0x34#8) [] ∧
    decode [0b00001001#8, 0x34#8] = .ok (.oraImm 0x34#8) [] ∧
    decode [0b00001101#8, 0x34#8, 0x12#8] = .ok (.oraAbs 0x1234#16) [] ∧
    decode [0b00010001#8, 0x34#8] = .ok (.oraIzy 0x34#8) [] ∧
    decode [0b00010101#8, 0x34#8] = .ok (.oraZpx 0x34#8) [] ∧
    decode [0b00011001#8, 0x34#8, 0x12#8] = .ok (.oraAby 0x1234#16) [] ∧
    decode [0b00011101#8, 0x34#8, 0x12#8] = .ok (.oraAbx 0x1234#16) [] := by
  decide +kernel

theorem test_decode_logic_2 :
    decode [0b01000001#8, 0x34#8] = .ok (.eorIzx 0x34#8) [] ∧
    decode [0b01000101#8, 0x34#8] = .ok (.eorZp 0x34#8) [] ∧
    decode [0b01001001#8, 0x34#8] = .ok (.eorImm 0x34#8) [] ∧
    decode [0b01001101#8, 0x34#8, 0x12#8] = .ok (.eorAbs 0x1234#16) [] ∧
    decode [0b01010001#8, 0x34#8] = .ok (.eorIzy 0x34#8) [] ∧
    decode [0b01010101#8, 0x34#8] = .ok (.eorZpx 0x34#8) [] ∧
    decode [0b01011001#8, 0x34#8, 0x12#8] = .ok (.eorAby 0x1234#16) [] ∧
    decode [0b01011101#8, 0x34#8, 0x12#8] = .ok (.eorAbx 0x1234#16) [] := by
  decide +kernel

theorem test_decode_compare :
    decode [0b11000001#8, 0x34#8] = .ok (.cmpIzx 0x34#8) [] ∧
    decode [0b11000101#8, 0x34#8] = .ok (.cmpZp 0x34#8) [] ∧
    decode [0b11001001#8, 0x34#8] = .ok (.cmpImm 0x34#8) [] ∧
    decode [0b11001101#8, 0x34#8, 0x12#8] = .ok (.cmpAbs 0x1234#16) [] ∧
    decode [0b11010001#8, 0x34#8] = .ok (.cmpIzy 0x34#8) [] ∧
    decode [0b11010101#8, 0x34#8] = .ok (.cmpZpx 0x34#8) [] ∧
    decode [0b11011001#8, 0x34#8, 0x12#8] = .ok (.cmpAby 0x1234#16) [] ∧
    decode [0b11011101#8, 0x34#8, 0x12#8] = .ok (.cmpAbx 0x1234#16) [] ∧
    decode [0b11100000#8, 0x34#8] = .ok (.cpxImm 0x34#8) [] ∧
    decode [0b11100100#8, 0x34#8] = .ok (.cpxZp 0x34#8) [] ∧
    decode [0b11101100#8, 0x34#8, 0x12#8] = .ok (.cpxAbs 0x1234#16) [] ∧
    decode [0b11000000#8, 0x34#8] = .ok (.cpyImm 0x34#8) [] ∧
    decode [0b11000100#8, 0x34#8] = .ok (.cpyZp 0x34#8) [] ∧
    decode [0b11001100#8, 0x34#8, 0x12#8] = .ok (.cpyAbs 0x1234#16) [] ∧
    decode [0b00100100#8, 0x34#8] = .ok (.bitZp 0x34#8) [] ∧
    decode [0b00101100#8, 0x34#8, 0x12#8] = .ok (.bitAbs 0x1234#16) [] := by
  decide +kernel

theorem test_decode_increment :
    decode [0b11100110#8, 0x34#8] = .ok (.incZp 0x34#8) [] ∧
    decode [0b11101110#8, 0x34#8, 0x12#8] = .ok (.incAbs 0x1234#16) [] ∧
    decode [0b11110110#8, 0x34#8] = .ok (.incZpx 0x34#8) [] ∧
    decode [0b11111110#8, 0x34#8, 0x12#8] = .ok (.incAbx 0x1234#16) [] ∧
    decode [0b11000110#8, 0x34#8] = .ok (.decZp 0x34#8) [] ∧
    decode [0b11001110#8, 0x34#8, 0x12#8] = .ok (.decAbs 0x1234#16) [] ∧
    decode [0b11010110#8, 0x34#8] = .ok (.decZpx 0x34#8) [] ∧
    decode [0b11011110#8, 0x34#8, 0x12#8] = .ok (.decAbx 0x1234#16) [] ∧
    decode [0b11101000#8] = .ok .inx [] ∧
    decode [0b11001000#8] = .ok .iny [] ∧
    decode [0b11001010#8] = .ok .dex [] ∧
    decode [0b10001000#8] = .ok .dey [] := by
  decide +kernel

theorem test_decode_shift_1 :
    decode [0b00000110#8, 0x34#8] = .ok (.aslZp 0x34#8) [] ∧
    decode [0b00001010#8] = .ok .aslAcc [] ∧
    decode [0b00001110#8, 0x34#8, 0x12#8] = .ok (.aslAbs 0x1234#16) [] ∧
    decode [0b00010110#8, 0x34#8] = .ok (.aslZpx 0x34#8) [] ∧
    decode [0b00011110#8, 0x34#8, 0x12#8] = .ok (.aslAbx 0x1234#16) [] ∧
    decode [0b01000110#8, 0x34#8] = .ok (.lsrZp 0x34#8) [] ∧
    decode [0b01001010#8] = .ok .lsrAcc [] ∧
    decode [0b01001110#8, 0x34#8, 0x12#8] = .ok (.lsrAbs 0x1234#16) [] ∧
    decode [0b01010110#8, 0x34#8] = .ok (.lsrZpx 0x34#8) [] ∧
    decode [0b01011110#8, 0x34#8, 0x12#8] = .ok (.lsrAbx 0x1234#16) [] ∧
    decode [0b00100110#8, 0x34#8] = .ok (.rolZp 0x34#8) [] ∧
    decode [0b00101010#8] = .ok .rolAcc [] ∧
    decode [0b00101110#8, 0x34#8, 0x12#8] = .ok (.rolAbs 0x1234#16) [] ∧
    decode [0b00110110#8, 0x34#8] = .ok (.rolZpx 0x34#8) [] ∧
    decode [0b00111110#8, 0x34#8, 0x12#8] = .ok (.rolAbx 0x1234#16) [] ∧
    decode [0b01100110#8, 0x34#8] = .ok (.rorZp 0x34#8) [] := by
  decide +kernel

theorem test_decode_shift_2 :
    decode [0b01101010#8] = .ok .rorAcc [] ∧
    decode [0b01101110#8, 0x34#8, 0x12#8] = .ok (.rorAbs 0x1234#16) [] ∧
    decode [0b01110110#8, 0x34#8] = .ok (.rorZpx 0x34#8) [] ∧
    decode [0b01111110#8, 0x34#8, 0x12#8] = .ok (.rorAbx 0x1234#16) [] := by
  decide +kernel

theorem test_decode_jump :
    decode [0b01001100#8, 0x34#8, 0x12#8] = .ok (.jmpAbs 0x1234#16) [] ∧
    decode [0b01101100#8, 0x34#8, 0x12#8] = .ok (.jmpInd 0x1234#16) [] ∧
    decode [0b00100000#8, 0x34#8, 0x12#8] = .ok (.jsr 0x1234#16) [] ∧
    decode [0b01100000#8] = .ok .rts [] := by
  decide +kernel

theorem test_decode_branch :
    decode [0b00010000#8, 0x34#8] = .ok (.bpl 0x34#8) [] ∧
    decode [0b00110000#8, 0x34#8] = .ok (.bmi 0x34#8) [] ∧
    decode [0b01010000#8, 0x34#8] = .ok (.bvc 0x34#8) [] ∧
    decode [0b01110000#8, 0x34#8] = .ok (.bvs 0x34#8) [] ∧
    decode [0b10010000#8, 0x34#8] = .ok (.bcc 0x34#8) [] ∧
    decode [0b10110000#8, 0x34#8] = .ok (.bcs 0x34#8) [] ∧
    decode [0b11010000#8, 0x34#8] = .ok (.bne 0x34#8) [] ∧
    decode [0b11110000#8, 0x34#8] = .ok (.beq 0x34#8) [] := by
  decide +kernel

theorem test_decode_stack :
    decode [0b01001000#8] = .ok .pha [] ∧
    decode [0b01101000#8] = .ok .pla [] ∧
    decode [0b00001000#8] = .ok .php [] ∧
    decode [0b00101000#8] = .ok .plp [] := by
  decide +kernel

theorem test_decode_flag :
    decode [0b00011000#8] = .ok .clc [] ∧
    decode [0b00111000#8] = .ok .sec [] ∧
    decode [0b01011000#8] = .ok .cli [] ∧
    decode [0b01111000#8] = .ok .sei [] ∧
    decode [0b11011000#8] = .ok .cld [] ∧
    decode [0b11111000#8] = .ok .sed [] ∧
    decode [0b10111000#8] = .ok .clv [] := by
  decide +kernel

theorem test_decode_system :
    decode [0b11101010#8] = .ok .nop [] ∧
    decode [0b00000000#8] = .ok .brk [] ∧
    decode [0b01000000#8] = .ok .rti [] := by
  decide +kernel

/-- The illegal opcode 0x02 is rejected by its value (30_encoding.md R150). -/
theorem test_decode_illegal : decode [0b00000010#8, 0x34#8, 0x12#8] = .illegalOpcode 0x02#8 := by decide

/-- Table numbering: the second byte is bits 15 to 8, the third bits 23 to 16; missing operand bits are 0. -/
theorem test_table_words :
    decodeTableWord 24 0x1234BD = some (.ldaAbx 0x1234#16) ∧ decodeTableWord 8 0xBD = some (.ldaAbx 0x0000#16) ∧
    decodeTableWord 8 0x02 = none := by
  decide +kernel

/-! ### One step. The start state is that of 95_test_vectors.md: one program bank, vectors 0x9000, 0x8000 and
0x9100, NOPs at the two handlers; the bytes of the instruction are placed at PC. -/

/-- The cartridge of the vectors. -/
def testCart : Cartridge where
  prgBanks := .one
  prg :=
    [(0x1000, 0xEA#8), (0x1001, 0xEA#8), (0x1100, 0xEA#8), (0x1101, 0xEA#8), (0x3FFB, 0x90#8), (0x3FFD, 0x80#8),
     (0x3FFF, 0x91#8)]
  chr := none
  mirroring := .horizontal

/-- The state after RESET. -/
def start : State := State.powerOn Config.default testCart

/-- Store bytes in work RAM. -/
def poke (s : State) (cells : List (Nat × Byte)) : State :=
  { s with ram := cells.foldl (fun m c => m.write c.1 c.2) s.ram }

/-- The flags as one byte, bit 5 set and B in bit 4. -/
def packed (s : State) : Byte := s.p.pack s.p.b

/-- One step from `s`, with the bytes placed at PC, returns the cycle count and meets the check. -/
def steps (bytes : List Byte) (s : State) (cycles : Nat) (check : State → Bool) : Bool :=
  match step (placeBytes bytes s.pc s) with
  | .next t => t.totalCycles == s.totalCycles + cycles && check t
  | _ => false

/-- One step from `s` faults, with the given fault. -/
def faults (s : State) (f : Fault) : Bool :=
  match step s with
  | .fault g => g == f
  | _ => false

theorem test_lda_zpx_wraps_in_page_zero :
    steps [0xB5#8, 0xFF#8] (poke { start with x := 0x02#8 } [(0x01, 0x33#8), (0x101, 0x44#8)]) 4
      (fun t => t.a == 0x33#8 && packed t == 0x24#8 && t.pc == 0x8002#16) = true := by decide +kernel
theorem test_lda_izy_pointer_wraps_and_page_crossed :
    steps [0xB1#8, 0xFF#8] (poke { start with y := 0x01#8 } [(0xFF, 0xFF#8), (0x00, 0x02#8), (0x300, 0x5A#8)]) 6
      (fun t => t.a == 0x5A#8 && packed t == 0x24#8) = true := by decide +kernel
theorem test_ldx_zpy :
    steps [0xB6#8, 0x10#8] (poke { start with y := 0xF1#8 } [(0x01, 0x80#8)]) 4
      (fun t => t.x == 0x80#8 && packed t == 0xA4#8) = true := by decide +kernel
theorem test_ldx_zero :
    steps [0xA2#8, 0x00#8] { start with x := 0x55#8 } 2 (fun t => t.x == 0x00#8 && packed t == 0x26#8) = true := by
  decide +kernel
theorem test_ldy_abx_crosses :
    steps [0xBC#8, 0xFF#8, 0x02#8] { start with x := 0x01#8 } 5 (fun t => t.y == 0x00#8 && packed t == 0x26#8) = true := by
  decide +kernel
theorem test_ldy_negative : steps [0xA0#8, 0xFF#8] start 2 (fun t => t.y == 0xFF#8 && packed t == 0xA4#8) = true := by
  decide +kernel
theorem test_sta_abx_no_extra_cycle :
    steps [0x9D#8, 0xFF#8, 0x02#8] { start with a := 0x77#8, x := 0x01#8 } 5
      (fun t => t.ram == [(0x300, 0x77#8)] && packed t == 0x24#8) = true := by decide +kernel
theorem test_sta_rom_ignored :
    steps [0x8D#8, 0x00#8, 0x80#8] { start with a := 0x42#8 } 4
      (fun t => t.peek 0x8000#16 == 0x8D#8 && t.ram == []) = true := by decide +kernel
theorem test_stx_zpy_wraps :
    steps [0x96#8, 0x10#8] { start with x := 0x77#8, y := 0xFF#8 } 4 (fun t => t.ram == [(0x0F, 0x77#8)]) = true := by
  decide +kernel
theorem test_sty_zpx :
    steps [0x94#8, 0x10#8] { start with y := 0x66#8, x := 0x01#8 } 4 (fun t => t.ram == [(0x11, 0x66#8)]) = true := by
  decide +kernel
theorem test_tax :
    steps [0xAA#8] { start with x := 0x55#8 } 2 (fun t => t.x == 0x00#8 && packed t == 0x26#8) = true := by decide +kernel
theorem test_tay :
    steps [0xA8#8] { start with a := 0x80#8 } 2 (fun t => t.y == 0x80#8 && packed t == 0xA4#8) = true := by decide +kernel
theorem test_txa :
    steps [0x8A#8] { start with x := 0x7F#8, a := 0xFF#8 } 2 (fun t => t.a == 0x7F#8 && packed t == 0x24#8) = true := by
  decide +kernel
theorem test_tya :
    steps [0x98#8] { start with y := 0x80#8 } 2 (fun t => t.a == 0x80#8 && packed t == 0xA4#8) = true := by decide +kernel
theorem test_tsx : steps [0xBA#8] start 2 (fun t => t.x == 0xFD#8 && packed t == 0xA4#8) = true := by decide +kernel
theorem test_txs_no_flags :
    steps [0x9A#8] { start with p.n := true } 2 (fun t => t.sp == 0x00#8 && packed t == 0xA4#8) = true := by
  decide +kernel
theorem test_adc_overflow_from_carry_in :
    steps [0x69#8, 0x00#8] { start with a := 0x7F#8, p.c := true } 2
      (fun t => t.a == 0x80#8 && packed t == 0xE4#8) = true := by decide +kernel
theorem test_adc_ignores_decimal :
    steps [0x69#8, 0x01#8] { start with a := 0x09#8, p.d := true } 2
      (fun t => t.a == 0x0A#8 && packed t == 0x2C#8) = true := by decide +kernel
theorem test_sbc_borrow :
    steps [0xE9#8, 0x40#8] { start with a := 0x40#8 } 2 (fun t => t.a == 0xFF#8 && packed t == 0xA4#8) = true := by
  decide +kernel
theorem test_sbc_overflow :
    steps [0xE9#8, 0xFF#8] { start with a := 0x7F#8, p.c := true } 2
      (fun t => t.a == 0x80#8 && packed t == 0xE4#8) = true := by decide +kernel
theorem test_and :
    steps [0x29#8, 0x0F#8] { start with a := 0xF0#8 } 2 (fun t => t.a == 0x00#8 && packed t == 0x26#8) = true := by
  decide +kernel
theorem test_ora :
    steps [0x09#8, 0x81#8] { start with a := 0x02#8 } 2 (fun t => t.a == 0x83#8 && packed t == 0xA4#8) = true := by
  decide +kernel
theorem test_eor :
    steps [0x49#8, 0xFF#8] { start with a := 0x7F#8 } 2 (fun t => t.a == 0x80#8 && packed t == 0xA4#8) = true := by
  decide +kernel
theorem test_cmp_equal :
    steps [0xC9#8, 0x40#8] { start with a := 0x40#8 } 2 (fun t => t.a == 0x40#8 && packed t == 0x27#8) = true := by
  decide +kernel
theorem test_cmp_unsigned :
    steps [0xC9#8, 0x00#8] { start with a := 0x80#8 } 2 (fun t => packed t == 0xA5#8) = true := by decide +kernel
theorem test_cpx :
    steps [0xE0#8, 0x10#8] { start with x := 0x0F#8 } 2 (fun t => t.x == 0x0F#8 && packed t == 0xA4#8) = true := by
  decide +kernel
theorem test_cpy :
    steps [0xC4#8, 0x10#8] (poke { start with y := 0x80#8 } [(0x10, 0x7F#8)]) 3
      (fun t => t.y == 0x80#8 && packed t == 0x25#8) = true := by decide +kernel
theorem test_bit :
    steps [0x24#8, 0x10#8] (poke { start with a := 0x01#8 } [(0x10, 0xC0#8)]) 3
      (fun t => t.a == 0x01#8 && packed t == 0xE6#8) = true := by decide +kernel
theorem test_inc_wraps :
    steps [0xE6#8, 0x10#8] (poke start [(0x10, 0xFF#8)]) 5 (fun t => t.ram == [] && packed t == 0x26#8) = true := by
  decide +kernel
theorem test_dec_abx :
    steps [0xDE#8, 0x00#8, 0x02#8] { start with x := 0x01#8 } 7
      (fun t => t.ram == [(0x201, 0xFF#8)] && packed t == 0xA4#8) = true := by decide +kernel
theorem test_inx :
    steps [0xE8#8] { start with x := 0xFF#8 } 2 (fun t => t.x == 0x00#8 && packed t == 0x26#8) = true := by decide +kernel
theorem test_iny :
    steps [0xC8#8] { start with y := 0x7F#8 } 2 (fun t => t.y == 0x80#8 && packed t == 0xA4#8) = true := by decide +kernel
theorem test_dex : steps [0xCA#8] start 2 (fun t => t.x == 0xFF#8 && packed t == 0xA4#8) = true := by decide +kernel
theorem test_dey :
    steps [0x88#8] { start with y := 0x01#8 } 2 (fun t => t.y == 0x00#8 && packed t == 0x26#8) = true := by decide +kernel
theorem test_asl_acc :
    steps [0x0A#8] { start with a := 0x41#8, p.c := true } 2 (fun t => t.a == 0x82#8 && packed t == 0xA4#8) = true := by
  decide +kernel
theorem test_asl_memory :
    steps [0x06#8, 0x10#8] (poke { start with a := 0x55#8 } [(0x10, 0xC0#8)]) 5
      (fun t => t.ram == [(0x10, 0x80#8)] && t.a == 0x55#8 && packed t == 0xA5#8) = true := by decide +kernel
theorem test_lsr_acc :
    steps [0x4A#8] { start with a := 0x01#8 } 2 (fun t => t.a == 0x00#8 && packed t == 0x27#8) = true := by decide +kernel
theorem test_lsr_memory :
    steps [0x4E#8, 0x00#8, 0x02#8] (poke start [(0x200, 0x03#8)]) 6
      (fun t => t.ram == [(0x200, 0x01#8)] && packed t == 0x25#8) = true := by decide +kernel
theorem test_rol_acc :
    steps [0x2A#8] { start with a := 0x80#8, p.c := true } 2 (fun t => t.a == 0x01#8 && packed t == 0x25#8) = true := by
  decide +kernel
theorem test_rol_memory :
    steps [0x36#8, 0x10#8] (poke { start with x := 0x01#8, p.c := true } [(0x11, 0x7F#8)]) 6
      (fun t => t.ram == [(0x11, 0xFF#8)] && packed t == 0xA4#8) = true := by decide +kernel
theorem test_ror_acc :
    steps [0x6A#8] { start with p.c := true } 2 (fun t => t.a == 0x80#8 && packed t == 0xA4#8) = true := by decide +kernel
theorem test_ror_memory :
    steps [0x7E#8, 0xFF#8, 0x02#8] (poke { start with x := 0x01#8, p.c := true } [(0x300, 0x02#8)]) 7
      (fun t => t.ram == [(0x300, 0x81#8)] && packed t == 0xA4#8) = true := by decide +kernel
theorem test_jmp_absolute :
    steps [0x4C#8, 0x00#8, 0x90#8] start 3 (fun t => t.pc == 0x9000#16 && t.sp == 0xFD#8) = true := by decide +kernel
theorem test_jmp_indirect_same_page :
    steps [0x6C#8, 0xFF#8, 0x02#8] (poke start [(0x2FF, 0x34#8), (0x200, 0x92#8), (0x300, 0x77#8)]) 5
      (fun t => t.pc == 0x9234#16) = true := by decide +kernel
theorem test_jsr_wraps :
    steps [0x20#8, 0x00#8, 0x90#8] { start with sp := 0x00#8 } 6
      (fun t => t.pc == 0x9000#16 && t.sp == 0xFE#8 && t.ram == [(0x100, 0x80#8), (0x1FF, 0x02#8)]) = true := by
  decide +kernel
theorem test_rts_carries_into_high_byte :
    steps [0x60#8] (poke { start with sp := 0xFB#8 } [(0x1FC, 0xFF#8), (0x1FD, 0x80#8)]) 6
      (fun t => t.pc == 0x8100#16 && t.sp == 0xFD#8) = true := by decide +kernel
theorem test_bpl_backward :
    steps [0x10#8, 0x80#8] start 2 (fun t => t.pc == 0x7F82#16) = true := by decide +kernel
theorem test_bmi_not_taken :
    steps [0x30#8, 0x7F#8] start 2 (fun t => t.pc == 0x8002#16) = true := by decide +kernel
theorem test_bmi_forward :
    steps [0x30#8, 0x7F#8] { start with p.n := true } 2 (fun t => t.pc == 0x8081#16) = true := by decide +kernel
theorem test_bvc : steps [0x50#8, 0x05#8] start 2 (fun t => t.pc == 0x8007#16) = true := by decide +kernel
theorem test_bvs : steps [0x70#8, 0x05#8] start 2 (fun t => t.pc == 0x8002#16) = true := by decide +kernel
theorem test_bcc : steps [0x90#8, 0x05#8] start 2 (fun t => t.pc == 0x8007#16) = true := by decide +kernel
theorem test_bcs : steps [0xB0#8, 0x05#8] { start with p.c := true } 2 (fun t => t.pc == 0x8007#16) = true := by
  decide +kernel
theorem test_bne_crosses_page_at_no_cost :
    steps [0xD0#8, 0x20#8] { start with pc := 0x80F0#16 } 2 (fun t => t.pc == 0x8112#16) = true := by decide +kernel
theorem test_beq_to_itself :
    steps [0xF0#8, 0xFE#8] { start with p.z := true } 2 (fun t => t.pc == 0x8000#16) = true := by decide +kernel
theorem test_pha_wraps :
    steps [0x48#8] { start with a := 0x5A#8, sp := 0x00#8 } 3 (fun t => t.ram == [(0x100, 0x5A#8)] && t.sp == 0xFF#8) = true := by
  decide +kernel
theorem test_pla_wraps :
    steps [0x68#8] { start with sp := 0xFF#8, a := 0x11#8 } 4
      (fun t => t.a == 0x00#8 && t.sp == 0x00#8 && packed t == 0x26#8) = true := by decide +kernel
theorem test_php :
    steps [0x08#8] { start with p.n := true, p.c := true } 3
      (fun t => t.ram == [(0x1FD, 0xB5#8)] && t.sp == 0xFC#8 && packed t == 0xA5#8) = true := by decide +kernel
theorem test_plp :
    steps [0x28#8] (poke { start with sp := 0xFC#8 } [(0x1FD, 0xFF#8)]) 4
      (fun t => packed t == 0xFF#8 && t.sp == 0xFD#8) = true := by decide +kernel
theorem test_clc : steps [0x18#8] { start with p.c := true } 2 (fun t => packed t == 0x24#8) = true := by decide +kernel
theorem test_sec : steps [0x38#8] start 2 (fun t => packed t == 0x25#8) = true := by decide +kernel
theorem test_cli : steps [0x58#8] start 2 (fun t => packed t == 0x20#8) = true := by decide +kernel
theorem test_sei : steps [0x78#8] { start with p.i := false } 2 (fun t => packed t == 0x24#8) = true := by decide +kernel
theorem test_cld : steps [0xD8#8] { start with p.d := true } 2 (fun t => packed t == 0x24#8) = true := by decide +kernel
theorem test_sed : steps [0xF8#8] start 2 (fun t => packed t == 0x2C#8) = true := by decide +kernel
theorem test_clv : steps [0xB8#8] { start with p.v := true } 2 (fun t => packed t == 0x24#8) = true := by decide +kernel
theorem test_nop :
    steps [0xEA#8] { start with p := Flags.unpack 0xE7#8 } 2
      (fun t => packed t == 0xE7#8 && t.pc == 0x8001#16) = true := by decide +kernel
theorem test_brk :
    steps [0x00#8, 0xEA#8] { start with p := Flags.unpack 0x81#8 } 7
      (fun t => t.pc == 0x9100#16 && t.sp == 0xFA#8 && packed t == 0xB5#8 &&
        t.ram == [(0x1FB, 0xB1#8), (0x1FC, 0x02#8), (0x1FD, 0x80#8)]) = true := by decide +kernel
theorem test_brk_gated :
    steps [0x00#8, 0xEA#8] start 7
      (fun t => t.pc == 0x8001#16 && t.sp == 0xFD#8 && packed t == 0x24#8 && t.ram == []) = true := by decide +kernel
theorem test_rti :
    steps [0x40#8] (poke { start with sp := 0xFA#8 } [(0x1FB, 0xC3#8), (0x1FC, 0x05#8), (0x1FD, 0x80#8)]) 6
      (fun t => t.pc == 0x8005#16 && t.sp == 0xFD#8 && packed t == 0xE3#8) = true := by decide +kernel
theorem test_rti_break_from_the_byte :
    steps [0x40#8] (poke { start with sp := 0xFA#8 } [(0x1FB, 0x30#8), (0x1FC, 0x00#8), (0x1FD, 0x90#8)]) 6
      (fun t => t.pc == 0x9000#16 && packed t == 0x30#8) = true := by decide +kernel

/-! ### Interrupts, the illegal opcode, OAM DMA (95_test_vectors.md 2.6, 2.11) -/

theorem test_nmi_not_masked :
    steps [] { start with nmiPending := true, pc := 0x8005#16 } 2
      (fun t => t.pc == 0x9001#16 && t.sp == 0xFA#8 && !t.nmiPending &&
        t.ram == [(0x1FB, 0x24#8), (0x1FC, 0x05#8), (0x1FD, 0x80#8)]) = true := by decide +kernel
theorem test_irq :
    steps [] { start with irqLine := true, p.i := false } 2
      (fun t => t.pc == 0x9101#16 && t.p.i && t.ram == [(0x1FB, 0x20#8), (0x1FD, 0x80#8)]) = true := by decide +kernel
theorem test_irq_masked :
    steps [0xEA#8] { start with irqLine := true } 2 (fun t => t.pc == 0x8001#16 && t.sp == 0xFD#8) = true := by
  decide +kernel
theorem test_illegal_opcode_faults :
    faults (placeBytes [0x02#8] start.pc start) (.illegalOpcode 0x02#8 0x8000#16) = true := by decide +kernel
theorem test_sta_4014 :
    steps [0x8D#8, 0x14#8, 0x40#8]
      (poke { start with a := 0x03#8, ppu.oamAddr := 0x10#8 } [(0x300, 0x77#8), (0x3FF, 0xEE#8)]) 517
      (fun t => t.ppu.oam == [(0x0F, 0xEE#8), (0x10, 0x77#8)] && t.ppu.oamAddr == 0x10#8) = true := by decide +kernel

/-! ### Devices, one operation each (95_test_vectors.md 2.7 to 2.11) -/

theorem test_status_read :
    (memRead 0x2002#16 { start with ppu := { start.ppu with vblank := true, sprite0Hit := true, w := true } }).1 = 0xC0#8 := by
  decide
theorem test_data_read_in_palette_is_immediate :
    ppuDataRead testCart { start.ppu with palette := [(0, 0x2C#8)], ntRam := [(0x700, 0x77#8)], vramAddr := 0x3F00#16 } =
      (0x2C#8, { start.ppu with palette := [(0, 0x2C#8)], ntRam := [(0x700, 0x77#8)], vramAddr := 0x3F01#16,
                                readBuffer := 0x77#8 }) := by decide
theorem test_scroll_and_address_share_the_latch :
    ppuRegWrite testCart (ppuRegWrite testCart start.ppu 6 0x20#8) 5 0x44#8 =
      { start.ppu with vramAddr := 0x2000#16, scrollY := 0x44#8 } := by decide
theorem test_palette_alias : ppuRead testCart (ppuWrite testCart start.ppu 0x3F10 0x2A#8) 0x3FE0 = 0x2A#8 := by decide
theorem test_horizontal_mirroring :
    [0x2005, 0x2405, 0x2805, 0x2C05, 0x3005].map (ppuRead testCart (ppuWrite testCart start.ppu 0x2005 0xAB#8)) =
      [0xAB#8, 0xAB#8, 0x00#8, 0x00#8, 0xAB#8] := by decide
theorem test_vertical_mirroring :
    [0x2010, 0x2410, 0x2810, 0x2C10].map
        (ppuRead { testCart with mirroring := .vertical }
          (ppuWrite { testCart with mirroring := .vertical } start.ppu 0x2C10 0xCD#8)) =
      [0x00#8, 0xCD#8, 0x00#8, 0xCD#8] := by decide
theorem test_vblank_entry :
    (let s := { start with ppu := { start.ppu with ctrl1 := 0x80#8, line := 240, dot := 339 } }
     let t := ppuRun 1 s
     (t.ppu.line, t.ppu.dot, t.ppu.vblank, t.nmiPending, t.frameReady)) = (241, 1, true, true, true) := by decide
theorem test_frame_restart :
    (let s := { start with ppu := { start.ppu with vblank := true, sprite0Hit := true, line := 261, dot := 339 } }
     let t := ppuRun 1 s
     (t.ppu.line, t.ppu.dot, t.ppu.vblank, t.ppu.sprite0Hit, t.frameReady)) = (0, 1, false, false, false) := by decide

/-- `n` sprites from entry 3 on have Y = 50, the others Y = 240. -/
def spritesAt50 (n : Nat) : Ppu :=
  { start.ppu with oam := (List.range 64).map fun i => (4 * i, if 3 ≤ i ∧ i < 3 + n then 50#8 else 240#8) }

theorem test_eight_sprites : (renderLine testCart (spritesAt50 8) 50).statusByte = 0x00#8 := by decide +kernel
theorem test_nine_sprites : (renderLine testCart (spritesAt50 9) 50).statusByte = 0x20#8 := by decide +kernel
theorem test_reset_oam_sets_both_flags : (renderLine testCart start.ppu 0).statusByte = 0x60#8 := by decide +kernel

/-- The example of 46_ppu_rendering_timing.md R336. -/
def bandExample : Ppu :=
  { start.ppu with ctrl2 := 0x08#8, ntRam := [(0, 0x01#8), (0x3C0, 0x02#8)], chr := [(0x0010, 0x80#8), (0x0018, 0x80#8)],
                   palette := [(0x08, 0x0F#8), (0x0B, 0x30#8)] }

theorem test_background_example :
    (let u := renderLine { testCart with mirroring := .vertical } bandExample 0
     [(0, 0), (0, 1), (0, 15), (0, 16), (1, 0), (7, 0), (8, 0)].map fun c => u.bgLayer.cell c.1 c.2) =
      [some ⟨0x30#6, true⟩, some ⟨0x0F#6, false⟩, some ⟨0x0F#6, false⟩, some ⟨0x00#6, false⟩, some ⟨0x0F#6, false⟩,
       some ⟨0x0F#6, false⟩, none] := by decide +kernel

/-- The example of 46_ppu_rendering_timing.md R352, the first `n` sprites on line 30. -/
def spriteExample (n : Nat) : Ppu :=
  { start.ppu with
    ctrl2 := 0x10#8
    chr := (List.range 8).map fun k => (0x20 + k, 0xFF#8)
    palette := [(0x11, 0x16#8)]
    oam := [(0, 0x1E#8), (1, 0x02#8), (3, 0xFC#8)] ++ (List.range 63).flatMap fun i =>
      [(4 * i + 4, if i + 1 < n then 0x1E#8 else 0xF0#8), (4 * i + 5, 0x02#8), (4 * i + 7, BitVec.ofNat 8 (16 * i))] }

theorem test_sprite_example :
    (let u := renderLine testCart (spriteExample 1) 30
     (u.spriteLayer.length, [(30, 252), (37, 255), (29, 252), (38, 252), (30, 251)].map fun c => u.spriteLayer.cell c.1 c.2,
       u.statusByte)) =
      (32, [some ⟨0x16#6, false⟩, some ⟨0x16#6, false⟩, none, none, none], 0x40#8) := by decide +kernel
theorem test_ninth_sprite_is_not_drawn :
    (let u := renderLine testCart (spriteExample 9) 30
     (u.spriteLayer.cell 30 96, u.spriteLayer.cell 30 112, u.statusByte)) =
      (some ⟨0x16#6, false⟩, none, 0x60#8) := by decide +kernel

/-- Pulse 1 after the writes of the first row of 95_test_vectors.md 2.10. -/
def pulseRow : Apu :=
  apuWrite (apuWrite (apuWrite (apuWrite (apuWrite Apu.powerOn 0x4015 0x07#8) 0x4000 0x9F#8) 0x4001 0x00#8) 0x4002 0xFD#8)
    0x4003 0x08#8

theorem test_pulse_registers :
    pulseRow.pulse1 =
      { Pulse.powerOn with duty := 2#2, volume := 15#4, period := 253#11, length := 254#8, enabled := true, swReload := true } ∧
    apuRead pulseRow 0x4015 = 0x01#8 ∧
    pulseOut 1789773 pulseRow.pulse1 =
      { freqNum := 1789773, freqDen := 16 * 254, shape := .square 2#2, active := true, remaining := 254#8,
        volume := some 15#4 } := by decide
theorem test_half_frame_cadence :
    ((apuRun 14915 14914 pulseRow).acc, (apuRun 14915 14914 pulseRow).pulse1.length) = (14914, 254#8) ∧
    ((apuRun 14915 1 (apuRun 14915 14914 pulseRow)).acc, (apuRun 14915 1 (apuRun 14915 14914 pulseRow)).pulse1.length) =
      (0, 253#8) := by decide +kernel
theorem test_sweep_adds_half :
    (let p := { Pulse.powerOn with period := 256#11, enabled := true, swEnable := true, swRate := 1#3, swShift := 1#3,
                                   swReload := true }
     ((pulseSweepClock p).period, (pulseSweepClock (pulseSweepClock (pulseSweepClock p))).period)) = (384#11, 576#11) := by
  decide
theorem test_triangle_registers :
    (let u := apuWrite (apuWrite (apuWrite (apuWrite Apu.powerOn 0x4015 0x06#8) 0x4008 0x7F#8) 0x400A 0x00#8) 0x400B 0x11#8
     (u.triPeriod, u.triLength, apuRead u 0x4015)) = (256#11, 20#8, 0x04#8) := by decide
theorem test_joypad_order :
    ((List.range 10).map fun n =>
      (padRead 0x00#8 (padAfter 0x00#8 n (padWrite 0x91#8 (padWrite 0x91#8 Pad.powerOn 0x01#8) 0x00#8))).1) =
      [1#8, 0#8, 0#8, 0#8, 1#8, 0#8, 0#8, 1#8, 1#8, 0#8] := by decide

/-! ### Placing a program (logs 2 and 21) -/

theorem test_with_fetch_word :
    steps [] (State.reset.withFetchWord 16 0x42A9) 2 (fun t => t.a == 0x42#8 && t.pc == 0x0002#16) = true := by
  decide +kernel

/-! ### Witnesses: for each statement with hypotheses, a state and operands that meet them, at the edges of each clause -/

theorem next_of {o : Host.Outcome State Fault Refusal} (h : (match o with | .next _ => true | _ => false) = true) :
    ∃ t, o = .next t := by
  cases o with
  | next t => exact ⟨t, rfl⟩
  | _ => cases h

/-- Every instruction answers a next state. -/
theorem runs (i : Instr) (s : State) : ∃ t, exec i s = .next t := ⟨_, exec_eq i s⟩

/-- A state about to execute the given bytes. -/
def ready (bytes : List Byte) (s : State) : State := placeBytes bytes s.pc s

theorem witness_EncodeOfDecode :
    decode [0xBD#8, 0xFF#8, 0x02#8, 0x00#8] = .ok (.ldaAbx 0x02FF#16) [0x00#8] ∧ decode [0xEA#8] = .ok .nop [] := by
  decide +kernel

theorem witness_IllegalOpcodesAreTheListed :
    (0x02#8).toNat ∈ illegalOpcodeValues ∧ (0xFF#8).toNat ∈ illegalOpcodeValues ∧
    (0x00#8).toNat ∉ illegalOpcodeValues ∧ (0xFE#8).toNat ∉ illegalOpcodeValues := by decide +kernel

theorem witness_LegalFormsAndLengths : (Form.mk .jmp (.mem (.ind 0xFFFF#16))).wellFormed = true := by decide

theorem witness_StepRunsTheDecodedInstruction :
    (fetchBytes (Instr.ldaAbx 0x02FF#16).length (beginStep (ready [0xBD#8, 0xFF#8, 0x02#8] start))).1 =
      encode (.ldaAbx 0x02FF#16) ∧
    (fetchBytes Instr.nop.length (beginStep { start with nmiPending := true })).1 = encode .nop := by decide +kernel

theorem witness_FetchFromStorage :
    (∀ k < 3, isStorage (({ start with pc := 0xFFFE#16 } : State).pc + BitVec.ofNat 16 k) = true) ∧
    (let s := { start with pc := 0x2002#16, ppu := { start.ppu with vblank := true } }
     s.pc = 0x2002#16 ∧ s.ppu.vblank = true ∧ (fetchBytes 1 s).1 = [0x80#8] ∧ (fetchBytes 1 s).2.pc = 0x2003#16) := by
  decide

theorem witness_CyclesOfAStep :
    (∃ t, step (ready [0xBD#8, 0xF0#8, 0x02#8] { start with x := 0x20#8 }) = .next t) ∧
    (∃ t, step (ready [0x8D#8, 0x14#8, 0x40#8] start) = .next t) ∧
    (∃ t, step (ready [0xD0#8, 0x7F#8] start) = .next t) :=
  ⟨next_of (by decide +kernel), next_of (by decide +kernel), next_of (by decide +kernel)⟩

theorem witness_StepStopsOnlyOnIllegalOpcodes :
    (let s0 := beginStep (ready [0xFF#8] start); (s0.peek s0.pc).toNat ∈ illegalOpcodeValues) ∧
    (let s0 := beginStep (ready [0xFE#8] start); (s0.peek s0.pc).toNat ∉ illegalOpcodeValues) := by decide +kernel

theorem witness_NoInstructionWritesTheConfiguration : ∃ t, step (ready [0x8D#8, 0x00#8, 0x80#8] start) = .next t :=
  next_of (by decide +kernel)

theorem witness_DeviceTimeStandsStillInAStep :
    ∃ t, exec (.bitAbs 0x2002#16) { start with ppu.vblank := true } = .next t := runs _ _

theorem witness_LoadInstructions :
    (Instr.ldaIzy 0xFF#8).op = .lda ∧ (Instr.ldxImm 0x00#8).op = .ldx ∧ (Instr.ldyAbx 0xFFFF#16).op = .ldy := by decide

theorem witness_StoreInstructions :
    (Instr.staAbs 0x4014#16).op = .sta ∧ (Instr.staAbs 0x4014#16).operand = .mem (.abs 0x4014#16) ∧
    (Instr.stxZpy 0xFF#8).op = .stx ∧ (Instr.stxZpy 0xFF#8).operand = .mem (.zpy 0xFF#8) ∧
    (Instr.styZpx 0xFF#8).op = .sty ∧ (Instr.styZpx 0xFF#8).operand = .mem (.zpx 0xFF#8) ∧
    (Instr.staAbs 0x4014#16).op ∈ storeOps ∧
    inRam 0x0000#16 = true ∧ inRam 0x1FFF#16 = true ∧ inRam 0x2000#16 = false ∧
    0x4020 ≤ (0x4020#16).toNat ∧ 0x4020 ≤ (0xFFFF#16).toNat ∧ ¬0x4020 ≤ (0x4014#16).toNat := by decide +kernel

theorem witness_AddAndSubtract : (Instr.adcImm 0x80#8).op = .adc ∧ (Instr.sbcAbs 0x2002#16).op = .sbc := by decide

theorem witness_LogicInstructions :
    (Instr.andImm 0x00#8).op = .and ∧ (Instr.oraIzx 0xFF#8).op = .ora ∧ (Instr.eorAby 0xFFFF#16).op = .eor := by decide

theorem witness_CompareAndBitTest :
    (Instr.cmpIzy 0xFF#8).op = .cmp ∧ (Instr.cpxImm 0x00#8).op = .cpx ∧ (Instr.cpyZp 0x10#8).op = .cpy ∧
    (Instr.bitAbs 0x2002#16).op = .bit := by decide

theorem witness_IncrementAndDecrement :
    (Instr.incAbx 0xFFFF#16).op = .inc ∧ (Instr.incAbx 0xFFFF#16).operand = .mem (.abx 0xFFFF#16) ∧
    (Instr.decZpx 0xFF#8).op = .dec ∧ (Instr.decZpx 0xFF#8).operand = .mem (.zpx 0xFF#8) := by decide

theorem witness_ShiftsAndRotates :
    (∀ o ∈ [Op.asl, .lsr, .rol, .ror], ∃ i ∈ [Instr.aslAcc, .lsrAcc, .rolAcc, .rorAcc], i.op = o ∧ i.operand = .acc) ∧
    (∀ o ∈ [Op.asl, .lsr, .rol, .ror],
      ∃ i ∈ [Instr.aslZp 0xFF#8, .lsrZp 0xFF#8, .rolZp 0xFF#8, .rorZp 0xFF#8],
        i.op = o ∧ i.operand = .mem (.zp 0xFF#8)) := by decide

theorem witness_JumpInstruction : isStorage 0x02FF#16 = true ∧ isStorage 0xFFFF#16 = true := by decide

theorem witness_CallAndReturn : ∃ t, exec (.jsr 0x9000#16) { start with sp := 0x00#8 } = .next t := runs _ _

theorem witness_PushAndPullInstructions : ∃ t, exec .pha { start with sp := 0x00#8, a := 0x5A#8 } = .next t := runs _ _

theorem witness_SoftwareInterrupt :
    (start.cfg.brkGated = true ∧ start.p.i = true) ∧
    (({ start with p.i := false } : State).cfg.brkGated = false ∨ ({ start with p.i := false } : State).p.i = false) ∧
    ({ start with cfg.brkGated := false } : State).cfg.brkGated = false := by decide

theorem witness_EffectiveAddresses :
    (AddrForm.izy 0xFF#8).mode ≠ .ind ∧ (AddrForm.izx 0xFF#8).mode ∉ [Mode.abx, .aby, .izy] ∧
    (AddrForm.ind 0x02FF#16).mode ∉ [Mode.abx, .aby, .izy] := by decide

theorem witness_FrameOfReadInstructions :
    ((Instr.ldaAbs 0x2007#16).op ∈ readOps ∧ ∃ t, exec (.ldaAbs 0x2007#16) start = .next t) ∧
    (∀ f, (Instr.cmpAbs 0x4020#16).operand = .mem f → inDeviceWindow (resolve f start).ea = false) :=
  ⟨⟨by decide, runs _ _⟩, fun f h => by cases Operand.mem.inj h; decide⟩

theorem witness_FrameOfRegisterInstructions :
    (RegisterOnly .tsx ∧ ∃ t, exec .tsx start = .next t) ∧
    (RegisterOnly .rorAcc ∧ ∃ t, exec .rorAcc start = .next t) ∧
    (RegisterOnly (.jmpAbs 0xFFFF#16) ∧ ∃ t, exec (.jmpAbs 0xFFFF#16) start = .next t) :=
  ⟨⟨.inl (by decide), runs _ _⟩, ⟨.inr (.inl rfl), runs _ _⟩, ⟨.inr (.inr ⟨rfl, rfl⟩), runs _ _⟩⟩

theorem witness_FrameOfStoringInstructions :
    ((Instr.staAbs 0x1FFF#16).op ∈ storeOps ++ modifyOps ∧ (Instr.staAbs 0x1FFF#16).operand = .mem (.abs 0x1FFF#16) ∧
      ∃ t, exec (.staAbs 0x1FFF#16) start = .next t) ∧
    ((Instr.rorAbx 0x4014#16).op ∈ storeOps ++ modifyOps ∧ ∃ t, exec (.rorAbx 0x4014#16) start = .next t) ∧
    inDeviceWindow 0x1FFF#16 = false ∧ inDeviceWindow 0x2000#16 = true ∧ inDeviceWindow 0x401F#16 = true ∧
    inDeviceWindow 0x4020#16 = false ∧ sameRamCell 0x07FE#16 0x1FFF#16 = false ∧ sameRamCell 0x07FF#16 0x1FFF#16 = true :=
  ⟨⟨by decide, rfl, runs _ _⟩, ⟨by decide, runs _ _⟩, by decide, by decide, by decide, by decide, by decide, by decide⟩

theorem witness_FrameOfStackInstructions :
    ((Instr.jsr 0x9000#16).op ∈ stackOps ∧ ∃ t, exec (.jsr 0x9000#16) { start with sp := 0x00#8 } = .next t) ∧
    (Instr.brk.op ∈ stackOps ∧ (∃ t, exec .brk { start with sp := 0x01#8, p.i := false } = .next t) ∧
      ∀ k < pushedBytes .brk { start with sp := 0x01#8, p.i := false },
        sameRamCell 0x01FE#16 (stackAddr (({ start with sp := 0x01#8, p.i := false } : State).sp - BitVec.ofNat 8 k)) = false) :=
  ⟨⟨by decide, runs _ _⟩, by decide, runs _ _, by decide⟩

theorem witness_WorkRamMirrors :
    inRam 0x07FF#16 = true ∧ inRam 0x1FFF#16 = true ∧ (0x07FF#16).toNat % 0x0800 = (0x1FFF#16).toNat % 0x0800 := by decide +kernel

theorem witness_OtherWindows :
    (0x2000 ≤ (0x2000#16).toNat ∧ (0x2000#16).toNat ≤ 0x3FFF) ∧ (0x2000 ≤ (0x3FFF#16).toNat ∧ (0x3FFF#16).toNat ≤ 0x3FFF) ∧
    0x8000 ≤ (0x8000#16).toNat ∧ 0x8000 ≤ (0xFFFF#16).toNat ∧ ((0xBFFF#16).toNat ≤ 0xBFFF ∧ start.cart.prgBanks = .one) ∧
    (0x4020 ≤ (0x4020#16).toNat ∧ (0x7FFF#16).toNat ≤ 0x7FFF) := by decide +kernel

theorem witness_PpuRegisterWrites :
    [0x2000#16, 0x2001#16, 0x2002#16, 0x3FFB#16, 0x3FFC#16, 0x3FFD#16, 0x3FFE#16, 0x3FFF#16].map
        (fun a : Word => (decide (0x2000 ≤ a.toNat), decide (a.toNat ≤ 0x3FFF), a.toNat % 8)) =
      (List.range 8).map fun n => (true, true, n) := by decide +kernel

theorem witness_PpuRegisterReads :
    [0x2000#16, 0x2001#16, 0x2002#16, 0x3FFB#16, 0x3FFC#16, 0x3FFD#16, 0x3FFE#16, 0x3FFF#16].map
        (fun a : Word => (decide (0x2000 ≤ a.toNat), decide (a.toNat ≤ 0x3FFF), a.toNat % 8)) =
      ((List.range 8).map fun n => (true, true, n)) ∧
    ({ start.ppu with vramAddr := 0x3EFF#16 } : Ppu).vramAddr.toNat % 0x4000 < 0x3F00 ∧
    0x3F00 ≤ ({ start.ppu with vramAddr := 0x7F00#16 } : Ppu).vramAddr.toNat % 0x4000 := by decide +kernel

theorem witness_NametableMirroring :
    (∀ a ∈ [0x2000, 0x3EFF], 0x2000 ≤ a ∧ a ≤ 0x3EFF) ∧
    physicalTable .horizontal 0x2005 = physicalTable .horizontal 0x3405 ∧
    physicalTable .horizontal 0x2005 ≠ physicalTable .horizontal 0x2805 ∧
    physicalTable .vertical 0x2005 = physicalTable .vertical 0x2805 ∧
    physicalTable .vertical 0x2005 ≠ physicalTable .vertical 0x2405 := by decide +kernel

theorem witness_PaletteAndCharacterMemory :
    (0x3FFF < 0x4000 ∧ 0x3F00 ≤ 0x3FFF ∧ paletteEntry 0x3F10 = paletteEntry 0x3FE0 ∧ paletteEntry 0x3F11 ≠ paletteEntry 0x3F01) ∧
    (0x1FFF ≤ 0x1FFF ∧ start.cart.chr = none) ∧
    (decide (0x1FFF ≤ 0x1FFF) ≠ decide (0x2000 ≤ 0x1FFF) ∨ decide (0x1FFF ≤ 0x3EFF) ≠ decide (0x2000 ≤ 0x3EFF)) ∧
    (decide (0x3EFF ≤ 0x1FFF) ≠ decide (0x3F00 ≤ 0x1FFF) ∨ decide (0x3EFF ≤ 0x3EFF) ≠ decide (0x3F00 ≤ 0x3EFF)) := by decide +kernel

theorem witness_OamDmaCopiesAPage :
    ∀ p ∈ [0x00#8, 0x1F#8, 0x41#8, 0xFF#8], BitVec.toNat (p : Byte) < 0x20 ∨ 0x41 ≤ p.toNat := by decide +kernel

theorem witness_JoypadProtocol : (0xFF#8).getLsbD 0 = true ∧ (0xFE#8).getLsbD 0 = false := by decide

theorem witness_ApuRegisterWrites :
    (∀ a ∈ [0x4009, 0x4010, 0x4013, 0x4017, 0x401F], a ∈ [0x4009, 0x4010, 0x4011, 0x4012, 0x4013] ∨ 0x4017 ≤ a) ∧
    ([0x4000#16, 0x4013#16, 0x4015#16, 0x4017#16, 0x401F#16] : List Word).all (fun a =>
      decide (0x4000 ≤ a.toNat) && decide (a.toNat ≤ 0x401F) && a != 0x4014#16 && a != 0x4016#16) = true := by
  decide +kernel

theorem test_apu_writes_come_through_the_bus :
    (memWrite 0x4003#16 0x08#8 (memWrite 0x4015#16 0x01#8 start)).apu.pulse1.length = 254#8 ∧
    memWrite 0x4017#16 0xFF#8 start = start := by decide +kernel

/-- Length then sweep of one half-frame, from 47_apu_channels.md R381 and R382. -/
theorem test_half_frame_clocks_length_and_sweep :
    (let p := { Pulse.powerOn with period := 256#11, length := 3#8, enabled := true, swEnable := true, swRate := 2#3,
                                   swShift := 1#3 }
     let t := halfFrame { Apu.powerOn with pulse1 := p, pulse2 := { p with halt := true, swNegate := true } }
     (t.pulse1.length, t.pulse1.period, t.pulse1.swDiv, t.pulse2.length, t.pulse2.period)) =
      (2#8, 384#11, 2#3, 3#8, 128#11) := by decide +kernel

theorem witness_LengthCountersAndStatus :
    [0x4000#16, 0x4015#16, 0x401F#16].map
        (fun a : Word => (decide (0x4000 ≤ a.toNat), decide (a.toNat ≤ 0x401F), decide (a = 0x4016#16))) =
      [(true, true, false), (true, true, false), (true, true, false)] := by decide +kernel

theorem witness_SweepClock :
    (let p := { Pulse.powerOn with period := 0x7FF#11, swEnable := true, swShift := 1#3, swNegate := true }
     p.swDiv = 0#3 ∧ p.swEnable = true ∧ 0 < p.swShift.toNat ∧ 8 ≤ p.period.toNat ∧
       p.period.toNat - p.period.toNat / 2 ^ p.swShift.toNat ≤ 0x7FF) ∧
    (let p := { Pulse.powerOn with swDiv := 7#3 }; ¬(p.swDiv = 0#3 ∨ p.swReload = true)) := by decide +kernel

theorem witness_ApuTimeDependsOnTheTotal :
    0 < Config.default.apuHalfFrame ∧ Apu.powerOn.acc + 14914 < Config.default.apuHalfFrame ∧
    (Apu.powerOn.acc < Config.default.apuHalfFrame ∧ Apu.powerOn.acc + 14915 = Config.default.apuHalfFrame) := by decide +kernel

theorem witness_FrameReadyAtVblankEntry :
    CountersInRange start ∧ CountersInRange { start with ppu := { start.ppu with line := 261, dot := 340 } } :=
  ⟨⟨by decide, by decide⟩, ⟨by decide, by decide⟩⟩

theorem witness_LineEnds :
    (start.ppu.line ≤ 239 ∧ start.ppu.dot + 3 * 113 < 341) ∧
    (341 ≤ start.ppu.dot + 3 * 114 ∧ start.ppu.dot + 3 * 227 < 682) ∧
    (∀ l ∈ [239, 240, 241, 260, 261], ({ start.ppu with line := l } : Ppu).line = l) ∧
    ¬240 ≤ 239 ∧ ¬241 ≤ 240 ∧ ¬261 ≤ 260 := by decide

theorem witness_BackgroundBand :
    bandExample.ctrl2.getLsbD 3 = true ∧ 232 % 8 = 0 ∧ 232 < 240 ∧ 239 < 240 ∧ 255 < 256 ∧ 232 ≤ 239 ∧ 239 < 232 + 8 ∧
    patternPixel testCart bandExample 0x0000 1 0 0 = 3 ∧ patternPixel testCart bandExample 0x0000 1 1 0 = 0 := by
  decide +kernel

theorem witness_SpritePixels :
    (239 < 240 ∧ 255 < 256) ∧
    spritePixelAt testCart (spriteExample 1) 232 0x02#8 0xE0#8 0xF8#8 239 255 = some ⟨0x16#6, true⟩ ∧
    spritePixelAt testCart (spriteExample 1) 232 0x02#8 0xE0#8 0xF8#8 231 255 = none ∧
    spritePixelAt testCart (spriteExample 1) 232 0x03#8 0xE0#8 0xF8#8 239 255 = none := by decide +kernel

theorem witness_SpriteLineDrawsTheFirstEight :
    start.ppu.ctrl2.getLsbD 4 = false ∧ (spriteExample 9).ctrl2.getLsbD 4 = true ∧ 239 < 240 ∧ 255 < 256 ∧
    (((List.range 64).filter fun i => ((spriteExample 9).oam.read (4 * i)).toNat == 30).take 8) = List.range 8 := by
  decide +kernel

theorem witness_InterruptPoll :
    ({ start with nmiPending := true } : State).nmiPending = true ∧
    (({ start with irqLine := true, p.i := false } : State).nmiPending = false ∧
      ({ start with irqLine := true, p.i := false } : State).irqLine = true ∧
      ({ start with irqLine := true, p.i := false } : State).p.i = false) ∧
    (({ start with irqLine := true } : State).nmiPending = false ∧
      (({ start with irqLine := true } : State).irqLine = false ∨ ({ start with irqLine := true } : State).p.i = true)) := by
  decide

theorem witness_ResetState : start.cart.chr = none ∧ ({ testCart with chr := some [(0, 0x01#8)] } : Cartridge).chr = some [(0, 0x01#8)] := by
  decide

theorem witness_InvariantsHoldAtReset :
    Config.default.wf = true ∧ testCart.wf = true ∧
    ({ testCart with prgBanks := .two, chr := some [(8191, 0xFF#8)], prg := [(32767, 0x80#8)] } : Cartridge).wf = true := by
  decide +kernel

/-- A state with something in every memory. -/
def busy : State :=
  { start with
    ram := [(0, 0x01#8), (0x7FF, 0x02#8)]
    totalCycles := 114
    ppu :=
      { start.ppu with
        ntRam := [(2047, 0x03#8)], palette := [(31, 0x04#8)], chr := [(8191, 0x05#8)], oam := [(255, 0x06#8)],
        bgLayer := [(0, ⟨1#6, true⟩)], spriteLayer := [(61439, ⟨2#6, false⟩)], line := 1, dot := 1 }
    apu := { Apu.powerOn with pulse1 := { Pulse.powerOn with enabled := true, length := 254#8 }, acc := 114 } }

theorem witness_InvariantKeptByEveryStep :
    Inv busy ∧ ∃ t, step (ready [0x8D#8, 0x14#8, 0x40#8] busy) = .next t :=
  ⟨{ config := by decide +kernel
     memories := ⟨by decide, by decide, by decide, by decide, by decide, by decide, by decide +kernel⟩
     layers := ⟨by decide, by decide⟩
     counters := ⟨by decide, by decide⟩
     apu := ⟨by decide, ⟨by decide, fun h => absurd h (by decide)⟩, ⟨by decide, fun _ => rfl⟩, by decide, fun _ => rfl⟩
     chrRom := fun _ h => absurd h (by nofun)
     palette := by unfold PaletteAliasesUnused; decide
     noExtra := rfl }, next_of (by decide +kernel)⟩

theorem witness_ClocksAgreeAfterEveryStep :
    ClocksAgree busy ∧ ∃ t, step busy = .next t :=
  ⟨⟨by decide, ⟨by decide, by decide⟩, by decide, by decide⟩, next_of (by decide +kernel)⟩

end Sys2Proof.Tests
end

section
/-! What no step writes: the cartridge, the parameters and the inputs (00_scope.md R16 to R18). -/

namespace Sys2Proof.Machine

section endStep
variable (op : Byte) (s : State)
@[simp] theorem endStep_cart : (endStep op s).cart = s.cart := by simp [endStep]
@[simp] theorem endStep_cfg : (endStep op s).cfg = s.cfg := by simp [endStep]
@[simp] theorem endStep_irqLine : (endStep op s).irqLine = s.irqLine := by simp [endStep]
@[simp] theorem endStep_padInput : (endStep op s).padInput = s.padInput := by simp [endStep]
end endStep

/-- Device time is the only thing of `SameTime` that a step moves, and it moves at the end of the step: the poll, the
fetch and the instruction before it keep all of it (48_sync_dma_joypad.md R400, R401). -/
theorem step_next_sameTime {s t : State} (h : step s = .next t) : ∃ op s', SameTime s s' ∧ t = endStep op s' := by
  obtain ⟨i, -, rfl⟩ := step_next h
  exact ⟨_, _, ((beginStep_time s).trans (fetchInstr_time _)).trans (effect_time i.op i.operand _), rfl⟩

end Sys2Proof.Machine

namespace Sys2Proof
open Machine

/-- Settles O11: up to the end of the step `SameTime` covers the four fields, and the end of the step keeps them. -/
theorem noInstructionWritesTheConfiguration : Obligations.NoInstructionWritesTheConfiguration := by
  unfold Obligations.NoInstructionWritesTheConfiguration
  intro s t h
  obtain ⟨op, s', same, rfl⟩ := step_next_sameTime h
  exact ⟨(endStep_cart op s').trans same.cart, (endStep_cfg op s').trans same.cfg,
    (endStep_irqLine op s').trans same.irqLine, (endStep_padInput op s').trans same.padInput⟩

end Sys2Proof
end

section
/-! The machine's invariant: it holds at RESET, and steps, changes of the inputs and RESETs keep it (10_state.md R32,
R34, R43 to R51, R61). `Kept` carries it through the phases of a step. -/

namespace Sys2Proof.Machine

theorem halfFrame_pos_of_wf {cfg : Config} (h : cfg.wf = true) : 0 < cfg.apuHalfFrame := by
  simp only [Config.wf, Bool.and_eq_true, decide_eq_true_eq] at h
  exact h.2

theorem Kept.powerOn {cfg : Config} {cart : Cartridge} (hcfg : cfg.wf = true) (hcart : cart.wf = true) :
    Kept (State.powerOn cfg cart) := by
  have hchr : cart.chrContents.wf 8192 = true := by
    simp only [Cartridge.wf, Bool.and_eq_true] at hcart; exact hcart.2
  have hpulse : PulseWf Pulse.powerOn := ⟨Nat.zero_le 254, fun _ => rfl⟩
  exact
    { config := hcfg
      cart := hcart
      ram := rfl
      ntRam := rfl
      palette := rfl
      chr := hchr
      oam := rfl
      background := rfl
      sprites := rfl
      dot := Nat.zero_le 340
      line := Nat.zero_le 261
      acc := halfFrame_pos_of_wf hcfg
      channels := ⟨hpulse, hpulse, Nat.zero_le 254, fun _ => rfl, rfl⟩
      chrRom := fun rom (h : cart.chr = some rom) => congrArg (Option.getD · []) h
      unused := fun i _ => Memory.read_nil i }

theorem Kept.withInputs {s : State} (h : Kept s) (irq : Bool) (buttons : Byte) : Kept (s.withInputs irq buttons) :=
  h.of_eq rfl rfl rfl rfl rfl rfl rfl rfl rfl rfl rfl rfl

theorem hostReset_eq (s : State) : s.hostReset = (State.powerOn s.cfg s.cart).withInputs s.irqLine s.padInput := rfl

/-- The end of a step keeps the invariant: the cycles are counted, then PPU and APU time passes. -/
theorem Kept.endStep {s : State} (h : Kept s) (op : Byte) : Kept (endStep op s) := by
  have counted : Kept { s with totalCycles := s.totalCycles + stepCycles op s, extra := 0 } :=
    h.of_eq rfl rfl rfl rfl rfl rfl rfl rfl rfl rfl rfl rfl
  exact (counted.ppuRun (stepCycles op s)).apuRun (stepCycles op s)

/-- No additional cycles live between steps (10_state.md R32). -/
@[simp] theorem endStep_extra (op : Byte) (s : State) : (endStep op s).extra = 0 := by simp [endStep]

/-- Every phase of a step keeps the invariant: the poll, the fetch, the instruction and the end of the step
(48_sync_dma_joypad.md R400). -/
theorem Inv.step {s t : State} (h : Inv s) (ht : step s = .next t) : Inv t := by
  obtain ⟨i, -, rfl⟩ := step_next ht
  exact ((h.kept.beginStep.fetchInstr.effect i.op i.operand).endStep i.opcode).inv (endStep_extra _ _)

theorem Inv.powerOn {cfg : Config} {cart : Cartridge} (hcfg : cfg.wf = true) (hcart : cart.wf = true) :
    Inv (State.powerOn cfg cart) := (Kept.powerOn hcfg hcart).inv rfl

theorem Inv.withInputs {s : State} (h : Inv s) (irq : Bool) (buttons : Byte) : Inv (s.withInputs irq buttons) :=
  (h.kept.withInputs irq buttons).inv h.noExtra

theorem Inv.hostReset {s : State} (h : Inv s) : Inv s.hostReset :=
  (Inv.powerOn h.config h.memories.cart).withInputs s.irqLine s.padInput

/-- All counters of time are zero at RESET, so they agree (48_sync_dma_joypad.md R404). -/
theorem ClocksAgree.powerOn {cfg : Config} (cart : Cartridge) (hcfg : cfg.wf = true) :
    ClocksAgree (State.powerOn cfg cart) :=
  ⟨halfFrame_pos_of_wf hcfg, ⟨Nat.zero_le 340, Nat.zero_le 261⟩, rfl, Nat.zero_mod _⟩

end Sys2Proof.Machine

namespace Sys2Proof
open Machine

/-- Settles O58: the invariant passes through the phases of a step, and RESET establishes it afresh. -/
theorem invariantKeptByEveryStep : Obligations.InvariantKeptByEveryStep := by
  unfold Obligations.InvariantKeptByEveryStep
  exact fun s h => ⟨fun t ht => h.step ht, h.withInputs, h.hostReset⟩

/-- Settles O57: every memory is empty and every counter zero, but for the character ROM, which the cartridge's
well-formedness covers. -/
theorem invariantsHoldAtReset : Obligations.InvariantsHoldAtReset := by
  unfold Obligations.InvariantsHoldAtReset
  have hcfg : Config.default.wf = true := by decide +kernel
  have hcart : Cartridge.blank.wf = true := by decide
  exact ⟨fun cfg cart hc hr => ⟨Inv.powerOn hc hr, ClocksAgree.powerOn cart hc⟩, Inv.powerOn hcfg hcart,
    ClocksAgree.powerOn Cartridge.blank hcfg⟩

/-- Settles O56: the vector is read from the ROM window, and everything else is what the power-on state holds. -/
theorem resetState : Obligations.ResetState := by
  unfold Obligations.ResetState
  intro s
  have vector : s.cart.resetVector = mkWord (s.peek 0xFFFD#16) (s.peek 0xFFFC#16) := by
    simp only [State.peek, memRead_rom (a := 0xFFFD#16) (by decide), memRead_rom (a := 0xFFFC#16) (by decide),
      Cartridge.resetVector]
  refine ⟨vector, rfl, rfl, rfl, rfl, rfl, rfl, rfl, rfl, rfl, fun _ => ⟨rfl, rfl, rfl, rfl, rfl⟩, fun rom h => ?_,
    fun h a => ?_, fun _ _ => ⟨rfl, rfl⟩, rfl, rfl, rfl, rfl, rfl, rfl, rfl⟩
  · exact congrArg (Option.getD · []) h
  · exact congrArg (fun c : Option Memory => (c.getD []).read a) h

end Sys2Proof
end

section
/-! The stack: what is stored by consecutive pushes, the status byte, and the eight instructions that use the stack
(10_state.md R25 to R27; 43_control_flow.md section 2; 44_stack_flags_system.md sections 1 and 4). -/

namespace Sys2Proof.Machine

/-! ### The status byte -/

theorem toNat_append_ofBool {n : Nat} (x : BitVec n) (b : Bool) :
    (x ++ BitVec.ofBool b).toNat = 2 * x.toNat + bit01 b := by
  have hb : (BitVec.ofBool b).toNat < 2 ^ 1 := (BitVec.ofBool b).isLt
  rw [BitVec.toNat_append, ← Nat.shiftLeft_add_eq_or_of_lt hb, Nat.shiftLeft_eq, Nat.mul_comm]
  cases b <;> rfl

theorem Flags.pack_toNat (p : Flags) (b : Bool) :
    (p.pack b).toNat = 128 * bit01 p.n + 64 * bit01 p.v + 32 + 16 * bit01 b + 8 * bit01 p.d + 4 * bit01 p.i +
      2 * bit01 p.z + bit01 p.c := by
  have hn : (BitVec.ofBool p.n).toNat = bit01 p.n := by cases p.n <;> rfl
  simp only [Flags.pack, toNat_append_ofBool, hn, Flags.r_eq, bit01, if_true]
  omega

@[simp] theorem Flags.unpack_pack (p : Flags) (b : Bool) : Flags.unpack (p.pack b) = { p with b := b } := by
  simp only [Flags.unpack, Flags.pack, BitVec.getLsbD_append, BitVec.getLsbD_ofBool]
  simp

/-- Only bit 5 is lost in unpacking, and packing sets it (10_state.md R25, R26). -/
theorem Flags.pack_unpack (v : Byte) : (Flags.unpack v).pack (v.getLsbD 4) = v ||| 0x20#8 := by
  revert v; decide +kernel

/-! ### What consecutive pushes store -/

/-- Work RAM after pushing `bytes` in order, the first at stack pointer `sp` (10_state.md R27). -/
def storePushed (m : Memory) (sp : Byte) : List Byte → Memory
  | [] => m
  | v :: rest => storePushed (m.write (0x0100 + sp.toNat) v) (sp - 1#8) rest

/-- The stack cells of two stack pointers are the same only if these are (10_state.md R27). -/
theorem stackCell_ne {sp sp' : Byte} (h : sp ≠ sp') : 0x0100 + sp.toNat ≠ 0x0100 + sp'.toNat :=
  fun e => h (BitVec.eq_of_toNat_eq (Nat.add_left_cancel e))

/-- A work RAM address whose cell is not the one at `sp` reads as before after a store there. -/
theorem read_write_stackCell {b : Word} {sp : Byte} (hb : b.toNat ≤ 0x1FFF)
    (h : sameRamCell b (stackAddr sp) = false) (m : Memory) (v : Byte) :
    (m.write (0x0100 + sp.toNat) v).read (b.toNat % 0x0800) = m.read (b.toNat % 0x0800) := by
  refine Memory.read_write_other m v fun e => ?_
  simp [sameRamCell, inRam, hb, stackAddr_le, stackAddr_mod, e] at h

theorem read_storePushed {b : Word} (hb : b.toNat ≤ 0x1FFF) (bytes : List Byte) (m : Memory) (sp : Byte)
    (h : ∀ k < bytes.length, sameRamCell b (stackAddr (sp - BitVec.ofNat 8 k)) = false) :
    (storePushed m sp bytes).read (b.toNat % 0x0800) = m.read (b.toNat % 0x0800) := by
  induction bytes generalizing m sp with
  | nil => rfl
  | cons v rest ih =>
    have first : sameRamCell b (stackAddr sp) = false := by simpa using h 0 (Nat.succ_pos _)
    have later : ∀ k < rest.length, sameRamCell b (stackAddr (sp - 1#8 - BitVec.ofNat 8 k)) = false := by
      intro k hk
      have e : sp - 1#8 - BitVec.ofNat 8 k = sp - BitVec.ofNat 8 (k + 1) := by
        rw [BitVec.ofNat_add, BitVec.add_comm, ← BitVec.sub_sub]
      exact e ▸ h (k + 1) (Nat.succ_lt_succ hk)
    exact (ih _ _ later).trans (read_write_stackCell hb first m v)

theorem peek_stackAddr (sp : Byte) (s : State) : s.peek (stackAddr sp) = s.ram.read (0x0100 + sp.toNat) := by
  rw [State.peek, memRead_ram (stackAddr_le sp), stackAddr_mod]

/-! ### The instructions -/

theorem exec_next {i : Instr} {s t : State} (h : exec i s = .next t) : t = effect i.op i.operand s :=
  Host.Outcome.next.inj (h.symm.trans (exec_eq i s))

theorem pull_push (v : Byte) (s : State) : pull (push v s) = (v, { push v s with sp := s.sp }) := by
  simp [pull_eq, push_eq]

theorem callTo_abs (w : Word) (s : State) :
    callTo (.abs w) s = { s with
      ram := storePushed s.ram s.sp [hiByte (s.pc - 1#16), loByte (s.pc - 1#16)], sp := s.sp - 2#8, pc := w } := by
  have hsp : s.sp - 1#8 - 1#8 = s.sp - 2#8 := BitVec.sub_sub ..
  simp only [callTo, resolve, push_eq, storePushed, hsp]

theorem returnFromCall_eq (s : State) :
    returnFromCall s = { s with
      pc := mkWord (s.ram.read (0x0100 + (s.sp + 2#8).toNat)) (s.ram.read (0x0100 + (s.sp + 1#8).toNat)) + 1#16
      sp := s.sp + 2#8 } := by
  have hsp : s.sp + 1#8 + 1#8 = s.sp + 2#8 := BitVec.add_assoc ..
  simp only [returnFromCall, pull_eq, hsp]

/-- A return right after a call comes back to the instruction after the call (43_control_flow.md R221, R222). -/
theorem returnFromCall_callTo (w : Word) (s : State) :
    returnFromCall (callTo (.abs w) s) = { callTo (.abs w) s with pc := s.pc, sp := s.sp } := by
  have h1 : s.sp - 2#8 + 1#8 = s.sp - 1#8 := by bv_omega
  have h2 : s.sp - 2#8 + 2#8 = s.sp := BitVec.sub_add_cancel ..
  have hne : 0x0100 + s.sp.toNat ≠ 0x0100 + (s.sp - 1#8).toNat := stackCell_ne (by bv_omega)
  have hpc : s.pc - 1#16 + 1#16 = s.pc := BitVec.sub_add_cancel ..
  simp only [returnFromCall_eq, callTo_abs, h1, h2, storePushed, Memory.read_write_same,
    Memory.read_write_other _ _ hne, mkWord_hiByte_loByte, hpc]

/-- The stack instructions are the eight of 43_control_flow.md section 2 and 44_stack_flags_system.md. -/
theorem eq_of_mem_stackOps {i : Instr} (h : i.op ∈ stackOps) :
    i = .pha ∨ i = .php ∨ i = .pla ∨ i = .plp ∨ (∃ w, i = .jsr w) ∨ i = .rts ∨ i = .brk ∨ i = .rti := by
  cases i <;> simp [stackOps, Instr.op] at h ⊢

/-- What a stack instruction can change: it pushes `bytes`, and it writes A, SP, P and PC as far as the fields say. -/
structure StackFrame (i : Instr) (s t : State) (bytes : List Byte) : Prop where
  length : bytes.length = pushedBytes i s
  change : t = { s with ram := storePushed s.ram s.sp bytes, a := t.a, sp := t.sp, p := t.p, pc := t.pc }
  a : i.op ≠ .pla → t.a = s.a
  flags : i.op ∈ [.pha, .php, .jsr, .rts] → t.p = s.p
  pulledFlags : i.op = .pla → t.p = { s.p with n := t.p.n, z := t.p.z }
  enteredFlags : i.op = .brk → t.p = { s.p with b := t.p.b, i := t.p.i }
  pc : i.op ∉ [.jsr, .rts, .brk, .rti] → t.pc = s.pc

theorem effect_stackFrame {i : Instr} (h : i.op ∈ stackOps) (s : State) :
    ∃ bytes, StackFrame i s (effect i.op i.operand s) bytes := by
  obtain rfl | rfl | rfl | rfl | ⟨w, rfl⟩ | rfl | rfl | rfl := eq_of_mem_stackOps h
  · have pha : effect Instr.pha.op Instr.pha.operand s = _ := push_eq s.a s
    rw [pha]
    exact ⟨[s.a], rfl, rfl, fun _ => rfl, fun _ => rfl, nofun, nofun, fun _ => rfl⟩
  · have php : effect Instr.php.op Instr.php.operand s = _ := push_eq (s.p.pack true) s
    rw [php]
    exact ⟨[s.p.pack true], rfl, rfl, fun _ => rfl, fun _ => rfl, nofun, nofun, fun _ => rfl⟩
  · have pla : effect Instr.pla.op Instr.pla.operand s = _ := congrArg loadA (pull_eq s)
    rw [pla]
    exact ⟨[], rfl, rfl, fun hp => absurd rfl hp, by simp [Instr.op], fun _ => rfl, nofun, fun _ => rfl⟩
  · have plp : effect Instr.plp.op Instr.plp.operand s = _ :=
      congrArg (fun m : Byte × State => { m.2 with p := Flags.unpack m.1 }) (pull_eq s)
    rw [plp]
    exact ⟨[], rfl, rfl, fun _ => rfl, by simp [Instr.op], nofun, nofun, fun _ => rfl⟩
  · have jsr : effect (Instr.jsr w).op (Instr.jsr w).operand s = _ := callTo_abs w s
    rw [jsr]
    exact ⟨_, rfl, rfl, fun _ => rfl, fun _ => rfl, nofun, nofun, by simp [Instr.op]⟩
  · have rts : effect Instr.rts.op Instr.rts.operand s = _ := returnFromCall_eq s
    rw [rts]
    exact ⟨[], rfl, rfl, fun _ => rfl, fun _ => rfl, nofun, nofun, by simp [Instr.op]⟩
  · by_cases hg : (s.cfg.brkGated && s.p.i) = true
    · have gated : effect Instr.brk.op Instr.brk.operand s = _ := if_pos hg
      have noBytes : 0 = pushedBytes .brk s := (if_pos hg).symm
      rw [gated]
      exact ⟨[], noBytes, rfl, fun _ => rfl, fun _ => rfl, nofun, fun _ => rfl, fun _ => rfl⟩
    · have entered : effect Instr.brk.op Instr.brk.operand s = _ := (if_neg hg).trans (interrupt_eq .brk _)
      have threeBytes : 3 = pushedBytes .brk s := (if_neg hg).symm
      rw [entered]
      exact ⟨[hiByte (s.pc + 1#16), loByte (s.pc + 1#16), s.p.pack true], threeBytes, rfl, fun _ => rfl,
        by simp [Instr.op], nofun, fun _ => rfl, by simp [Instr.op]⟩
  · have rti : effect Instr.rti.op Instr.rti.operand s = _ := returnFromInterrupt_eq s
    rw [rti]
    exact ⟨[], rfl, rfl, fun _ => rfl, by simp [Instr.op], nofun, nofun, by simp [Instr.op]⟩

/-- A read of the bus looks at work RAM, the devices, the buttons and the cartridge only (20_memory.md R72). -/
theorem peek_congr {s t : State} {b : Word}
    (ram : b.toNat ≤ 0x1FFF → t.ram.read (b.toNat % 0x0800) = s.ram.read (b.toNat % 0x0800))
    (ppu : t.ppu = s.ppu) (apu : t.apu = s.apu) (pad : t.pad = s.pad) (input : t.padInput = s.padInput)
    (cart : t.cart = s.cart) : t.peek b = s.peek b := by
  by_cases hb : b.toNat ≤ 0x1FFF
  · simp only [State.peek, memRead_ram hb, ram hb]
  · simp only [State.peek, memRead, ioRead, if_neg hb, ppu, apu, pad, input, cart, apply_ite Prod.fst]

end Sys2Proof.Machine

namespace Sys2Proof
open Machine

/-- Settles O24: the stack page lies in work RAM, so that a push is one store there and a pull one read. -/
theorem stackPrimitives : Obligations.StackPrimitives := by
  unfold Obligations.StackPrimitives
  refine ⟨fun v s => ⟨push_eq v s, ?_⟩, fun s => ⟨pull_eq s, ?_⟩, fun v s => ?_⟩
  · rw [← stackAddr_mod]; exact memWrite_ram (stackAddr_le s.sp) v s
  · rw [pull_eq]; exact (peek_stackAddr _ s).symm
  · rw [pull_push]; exact ⟨rfl, rfl⟩

/-- Settles O25. -/
theorem statusBytePackAndUnpack : Obligations.StatusBytePackAndUnpack := by
  unfold Obligations.StatusBytePackAndUnpack
  exact ⟨Flags.pack_toNat, Flags.unpack_pack, Flags.pack_unpack⟩

/-- Settles O26: each instruction is one push or one pull, and a pull gives back what was pushed. -/
theorem pushAndPullInstructions : Obligations.PushAndPullInstructions := by
  unfold Obligations.PushAndPullInstructions
  refine ⟨by decide +kernel, by decide +kernel, by decide +kernel, by decide +kernel, fun s => ⟨?_, ?_, ?_, ?_⟩, ?_⟩
  · exact congrArg Host.Outcome.next (push_eq s.a s)
  · exact congrArg (fun m => Host.Outcome.next (loadA m)) (pull_eq s)
  · exact congrArg Host.Outcome.next (push_eq (s.p.pack true) s)
  · exact congrArg (fun m : Byte × State => Host.Outcome.next { m.2 with p := Flags.unpack m.1 }) (pull_eq s)
  · intro s t h
    obtain rfl := exec_next h
    exact ⟨_, exec_eq .pla _, congrArg Prod.fst (pull_push s.a s), congrArg (·.2.sp) (pull_push s.a s)⟩

/-- Settles O22: the return address is pulled from the two cells it was pushed to, which differ. -/
theorem callAndReturn : Obligations.CallAndReturn := by
  unfold Obligations.CallAndReturn
  refine ⟨by decide +kernel, by decide +kernel, fun w s => ?_, fun s => ?_, fun w s t h => ?_⟩
  · exact congrArg Host.Outcome.next (callTo_abs w s)
  · exact congrArg Host.Outcome.next (returnFromCall_eq s)
  · obtain rfl := exec_next h
    exact congrArg Host.Outcome.next (returnFromCall_callTo w s)

/-- Settles O34: a stack instruction changes A, SP, P, PC and the cells of the bytes it pushes, and a bus read sees of
these only the cells. -/
theorem frameOfStackInstructions : Obligations.FrameOfStackInstructions := by
  unfold Obligations.FrameOfStackInstructions
  intro i s t hi h
  obtain rfl := exec_next h
  obtain ⟨bytes, f⟩ := effect_stackFrame hi s
  have same {α : Type} (g : State → α) := congrArg g f.change
  refine ⟨f.a, same (·.x), same (·.y), f.flags, f.pulledFlags, f.enteredFlags, f.pc, same (·.ppu), same (·.apu),
    same (·.pad), same (·.totalCycles), same (·.extra), same (·.nmiPending), same (·.cart), same (·.cfg), fun b hb => ?_⟩
  rw [f.change]
  exact peek_congr (fun hram => read_storePushed hram bytes s.ram s.sp (f.length ▸ hb)) rfl rfl rfl rfl rfl

end Sys2Proof
end

section
/-! The PPU address space and the work RAM window: what a write leaves in each memory, and what it reads as through
every image of its address (20_memory.md R74, R90 to R95). -/

namespace Sys2Proof.Machine

/-! ### Reads and writes of the PPU address space, region by region -/

section ppuMemory
variable (cart : Cartridge) (u : Ppu) {a : Nat}

theorem ppuRead_pattern (h : a ≤ 0x1FFF) : ppuRead cart u a = u.chr.read a := by
  have ha : a % 0x4000 = a := Nat.mod_eq_of_lt (by omega)
  simp only [ppuRead, ha, if_pos h]

theorem ppuRead_nametable (h : 0x2000 ≤ a) (h' : a ≤ 0x3EFF) :
    ppuRead cart u a = u.ntRam.read (ntIndex cart.mirroring a) := by
  have ha : a % 0x4000 = a := Nat.mod_eq_of_lt (by omega)
  have hp : ¬a ≤ 0x1FFF := by omega
  simp only [ppuRead, ha, if_neg hp, if_pos h']

theorem ppuRead_palette (h : 0x3F00 ≤ a) (h' : a < 0x4000) : ppuRead cart u a = u.palette.read (palIndex a) := by
  have hp : ¬a ≤ 0x1FFF := by omega
  have hn : ¬a ≤ 0x3EFF := by omega
  simp only [ppuRead, Nat.mod_eq_of_lt h', if_neg hp, if_neg hn]

/-- The pattern tables are written only in their own region, and only as character RAM (20_memory.md R91, R92). -/
theorem ppuWrite_chr (h : a < 0x4000) (v : Byte) :
    (ppuWrite cart u a v).chr = if cart.chr = none ∧ a ≤ 0x1FFF then u.chr.write a v else u.chr := by
  simp only [ppuWrite, Nat.mod_eq_of_lt h]
  by_cases hp : a ≤ 0x1FFF
  · cases hc : cart.chr <;> simp [hp]
  · by_cases hn : a ≤ 0x3EFF <;> simp [hp, hn]

/-- The nametables are written only in their own region (20_memory.md R91, R93). -/
theorem ppuWrite_ntRam (h : a < 0x4000) (v : Byte) :
    (ppuWrite cart u a v).ntRam =
      if 0x2000 ≤ a ∧ a ≤ 0x3EFF then u.ntRam.write (ntIndex cart.mirroring a) v else u.ntRam := by
  simp only [ppuWrite, Nat.mod_eq_of_lt h]
  by_cases hp : a ≤ 0x1FFF
  · have h2 : ¬0x2000 ≤ a := by omega
    cases hc : cart.chr <;> simp [hp, h2]
  · have h2 : 0x2000 ≤ a := by omega
    by_cases hn : a ≤ 0x3EFF <;> simp [hp, hn, h2]

/-- The palette is written only in its own region (20_memory.md R91, R95). -/
theorem ppuWrite_palette (h : a < 0x4000) (v : Byte) :
    (ppuWrite cart u a v).palette = if 0x3F00 ≤ a then u.palette.write (palIndex a) v else u.palette := by
  simp only [ppuWrite, Nat.mod_eq_of_lt h]
  by_cases hp : a ≤ 0x1FFF
  · have h3 : ¬0x3F00 ≤ a := by omega
    cases hc : cart.chr <;> simp [hp, h3]
  · by_cases hn : a ≤ 0x3EFF
    · have h3 : ¬0x3F00 ≤ a := by omega
      simp [hp, hn, h3]
    · have h3 : 0x3F00 ≤ a := by omega
      simp [hp, hn, h3]

end ppuMemory

/-! ### Which addresses name the same byte -/

theorem ntIndex_eq (mir : Mirroring) (a : Nat) : ntIndex mir a = physicalTable mir a * 0x400 + a % 0x400 := by
  cases mir <;> rfl

/-- Two nametable addresses name one byte exactly when table and offset agree (20_memory.md R93). -/
theorem ntIndex_eq_iff (mir : Mirroring) (a b : Nat) :
    ntIndex mir a = ntIndex mir b ↔ physicalTable mir a = physicalTable mir b ∧ a % 0x400 = b % 0x400 := by
  have := Nat.mod_lt a (by decide : 0x400 > 0)
  have := Nat.mod_lt b (by decide : 0x400 > 0)
  rw [ntIndex_eq, ntIndex_eq]
  omega

/-- The aliased entries are those of the addresses divisible by 4 (20_memory.md R95). -/
theorem palIndex_eq (a : Nat) : palIndex a = paletteEntry a := by
  simp only [palIndex, paletteEntry]
  split <;> split <;> omega

/-! ### Read after write -/

theorem ppuRead_ppuWrite_pattern (cart : Cartridge) (u : Ppu) {a b : Nat} (v : Byte) (ha : a ≤ 0x1FFF)
    (hb : b ≤ 0x1FFF) :
    ppuRead cart (ppuWrite cart u a v) b = if cart.chr = none ∧ a = b then v else ppuRead cart u b := by
  rw [ppuRead_pattern cart _ hb, ppuRead_pattern cart u hb, ppuWrite_chr cart u (by omega)]
  by_cases hc : cart.chr = none
  · simp only [hc, ha, and_self, if_true, true_and, Memory.read_write, eq_comm (a := b)]
  · simp only [hc, false_and, if_false]

theorem ppuRead_ppuWrite_nametable (cart : Cartridge) (u : Ppu) {a b : Nat} (v : Byte) (ha : 0x2000 ≤ a)
    (ha' : a ≤ 0x3EFF) (hb : 0x2000 ≤ b) (hb' : b ≤ 0x3EFF) :
    ppuRead cart (ppuWrite cart u a v) b =
      if ntIndex cart.mirroring a = ntIndex cart.mirroring b then v else ppuRead cart u b := by
  rw [ppuRead_nametable cart _ hb hb', ppuRead_nametable cart u hb hb', ppuWrite_ntRam cart u (by omega),
    if_pos ⟨ha, ha'⟩, Memory.read_write]
  simp only [eq_comm]

theorem ppuRead_ppuWrite_palette (cart : Cartridge) (u : Ppu) {a b : Nat} (v : Byte) (ha : 0x3F00 ≤ a)
    (ha' : a < 0x4000) (hb : 0x3F00 ≤ b) (hb' : b < 0x4000) :
    ppuRead cart (ppuWrite cart u a v) b = if palIndex a = palIndex b then v else ppuRead cart u b := by
  rw [ppuRead_palette cart _ hb hb', ppuRead_palette cart u hb hb', ppuWrite_palette cart u ha', if_pos ha,
    Memory.read_write]
  simp only [eq_comm]

/-- A write in one region is not seen in another (20_memory.md R90, R91). -/
theorem ppuRead_ppuWrite_otherRegion (cart : Cartridge) (u : Ppu) {a b : Nat} (v : Byte) (ha : a < 0x4000)
    (hb : b < 0x4000)
    (h : decide (a ≤ 0x1FFF) ≠ decide (b ≤ 0x1FFF) ∨ decide (a ≤ 0x3EFF) ≠ decide (b ≤ 0x3EFF)) :
    ppuRead cart (ppuWrite cart u a v) b = ppuRead cart u b := by
  simp only [ne_eq, decide_eq_decide] at h
  by_cases hp : b ≤ 0x1FFF
  · have away : ¬(cart.chr = none ∧ a ≤ 0x1FFF) := by omega
    rw [ppuRead_pattern cart _ hp, ppuRead_pattern cart u hp, ppuWrite_chr cart u ha, if_neg away]
  · by_cases hn : b ≤ 0x3EFF
    · have away : ¬(0x2000 ≤ a ∧ a ≤ 0x3EFF) := by omega
      have hb2 : 0x2000 ≤ b := by omega
      rw [ppuRead_nametable cart _ hb2 hn, ppuRead_nametable cart u hb2 hn, ppuWrite_ntRam cart u ha, if_neg away]
    · have away : ¬0x3F00 ≤ a := by omega
      have hb3 : 0x3F00 ≤ b := by omega
      rw [ppuRead_palette cart _ hb3 hb, ppuRead_palette cart u hb3 hb, ppuWrite_palette cart u ha, if_neg away]

/-- PPU addresses repeat modulo 0x4000 (20_memory.md R90, R91). -/
theorem ppuRead_add_0x4000 (cart : Cartridge) (u : Ppu) (a : Nat) : ppuRead cart u (a + 0x4000) = ppuRead cart u a := by
  simp only [ppuRead, Nat.add_mod_right]

theorem ppuWrite_add_0x4000 (cart : Cartridge) (u : Ppu) (a : Nat) (v : Byte) :
    ppuWrite cart u (a + 0x4000) v = ppuWrite cart u a v := by
  simp only [ppuWrite, Nat.add_mod_right]

theorem inRam_iff {a : Word} : inRam a = true ↔ a.toNat ≤ 0x1FFF := decide_eq_true_iff

end Sys2Proof.Machine

namespace Sys2Proof
open Machine

/-- Settles O35: an access of the window is one of the work RAM cell at the address modulo 0x0800. -/
theorem workRamMirrors : Obligations.WorkRamMirrors := by
  unfold Obligations.WorkRamMirrors
  intro a b v s ha hb
  rw [inRam_iff] at ha hb
  refine ⟨?_, ?_, ?_⟩
  · simp only [State.peek, memWrite_ram ha, memRead_ram hb, Memory.read_write, eq_comm]
  · rw [memWrite_ram ha]
  · simp only [State.peek, memRead_ram hb]

/-- Settles O39: an address is read and written at its index in nametable RAM, which is table and offset. -/
theorem nametableMirroring : Obligations.NametableMirroring := by
  unfold Obligations.NametableMirroring
  intro cart u a b v ha ha' hb hb'
  simp only [ppuRead_ppuWrite_nametable cart u v ha ha' hb hb', ntIndex_eq_iff]

/-- Settles O40: each region is its own memory, so that only a write in the same region is seen. -/
theorem paletteAndCharacterMemory : Obligations.PaletteAndCharacterMemory := by
  unfold Obligations.PaletteAndCharacterMemory
  intro cart u a b v ha hb
  refine ⟨fun ha3 hb3 => ?_, ppuRead_ppuWrite_pattern cart u v, ppuRead_ppuWrite_otherRegion cart u v ha hb,
    ppuRead_add_0x4000 cart u b, ppuWrite_add_0x4000 cart u a v⟩
  simp only [ppuRead_ppuWrite_palette cart u v ha3 ha hb3 hb, palIndex_eq]

end Sys2Proof
end

section
/-! What every instruction keeps, and what the read instructions leave unchanged (20_memory.md R83, R101;
40_load_store_transfer.md section 1; 41_arithmetic_logic.md sections 2 to 4). -/

namespace Sys2Proof.Machine

/-! ### What the parts of an instruction keep, the instruction keeps -/

/-- A property of states that bus reads, bus writes and changes of the CPU registers and the additional cycles keep. -/
structure Stable (P : State → Prop) : Prop where
  cpu : ∀ {s t : State}, P s →
    t = { s with a := t.a, x := t.x, y := t.y, sp := t.sp, pc := t.pc, p := t.p, extra := t.extra } → P t
  read : ∀ {s : State} (a : Word), P s → P (memRead a s).2
  write : ∀ {s : State} (a : Word) (v : Byte), P s → P (memWrite a v s)

section Stable
variable {P : State → Prop} (hP : Stable P) {s : State} (h : P s)
include hP h

theorem Stable.push (v : Byte) : P (push v s) := hP.cpu (hP.write (stackAddr s.sp) v h) rfl

theorem Stable.pull : P (pull s).2 := hP.read _ (hP.cpu (t := { s with sp := s.sp + 1#8 }) h rfl)

theorem Stable.operandByte (x : Operand) : P (operandByte x s).2 := by
  cases x with
  | mem f => exact hP.read _ (hP.cpu (t := { s with extra := s.extra + crossingCost f s }) h rfl)
  | _ => exact h

theorem Stable.resolve (f : AddrForm) : P (resolve f s).after := by
  by_cases hf : f.mode = .ind
  · cases f with
    | ind w => exact hP.read _ (hP.read w h)
    | _ => cases hf
  · rw [resolve_after hf]; exact h

theorem Stable.modifyOperand (g : Byte → Flags → AluResult) (x : Operand) : P (modifyOperand g x s) := by
  cases x with
  | mem f => exact hP.cpu (hP.write _ _ (hP.read (Machine.resolve f s).ea h)) rfl
  | _ => exact hP.cpu h rfl

theorem Stable.goIf (cond : Bool) (x : Operand) : P (goIf cond x s) := by
  cases cond <;> exact hP.cpu h rfl

theorem Stable.jumpOperand (x : Operand) : P (jumpOperand x s) := by
  cases x with
  | mem f => exact hP.cpu (hP.resolve h f) rfl
  | _ => exact h

theorem Stable.callOperand (x : Operand) : P (callOperand x s) := by
  cases x with
  | mem f => exact hP.cpu (hP.push (hP.push (hP.resolve h f) _) _) rfl
  | _ => exact h

theorem Stable.interrupt (k : InterruptKind) : P (interrupt k s) := by
  unfold Machine.interrupt
  extract_lets _ s1 s2 s3 s4 _ s5 v
  have h1 : P s1 := hP.cpu h rfl
  have h4 : P s4 := hP.push (hP.push (hP.push h1 _) _) _
  have h5 : P s5 := hP.cpu h4 rfl
  exact hP.cpu (hP.read _ (hP.read _ h5)) rfl

theorem Stable.returnFromInterrupt : P (returnFromInterrupt s) := by
  have flags (p : Flags) : P { (Machine.pull s).2 with p := p } := hP.cpu (hP.pull h) rfl
  exact hP.cpu (hP.pull (hP.pull (flags _))) rfl

theorem Stable.effect (o : Op) (x : Operand) : P (effect o x s) := by
  cases o
  case lda | ldx | ldy | adc | sbc | and | ora | eor | cmp | cpx | cpy | bit =>
    exact hP.cpu (hP.operandByte h x) rfl
  case sta | stx | sty => exact hP.write _ _ h
  case inc | dec | asl | lsr | rol | ror => exact hP.modifyOperand h _ x
  case bpl | bmi | bvc | bvs | bcc | bcs | bne | beq => exact hP.goIf h _ x
  case tax | tay | txa | tya | tsx | txs | inx | iny | dex | dey | clc | sec | cli | sei | cld | sed | clv | nop =>
    exact hP.cpu h rfl
  case jmp => exact hP.jumpOperand h x
  case jsr => exact hP.callOperand h x
  case rts => exact hP.cpu (hP.pull (hP.pull h)) rfl
  case pha | php => exact hP.push h _
  case pla | plp => exact hP.cpu (hP.pull h) rfl
  case brk =>
    rw [Machine.effect]
    split
    · exact h
    · exact hP.interrupt (hP.cpu (t := { s with pc := s.pc + 1#16 }) h rfl) .brk
  case rti => exact hP.returnFromInterrupt h

end Stable

/-! ### Device time -/

/-- The status flags of the PPU after a bus access: `vblank` may be cleared, nothing else (20_memory.md R83, R101). -/
structure StatusKept (u u' : Ppu) : Prop where
  sprite0Hit : u'.sprite0Hit = u.sprite0Hit
  spriteOverflow : u'.spriteOverflow = u.spriteOverflow
  vblank : u'.vblank = true → u.vblank = true

theorem StatusKept.refl (u : Ppu) : StatusKept u u := ⟨rfl, rfl, id⟩

theorem StatusKept.trans {u u' u'' : Ppu} (h : StatusKept u u') (h' : StatusKept u' u'') : StatusKept u u'' :=
  ⟨h'.sprite0Hit.trans h.sprite0Hit, h'.spriteOverflow.trans h.spriteOverflow, h.vblank ∘ h'.vblank⟩

theorem ppuRegRead_statusKept (cart : Cartridge) (u : Ppu) (n : Nat) : StatusKept u (ppuRegRead cart u n).2 := by
  unfold ppuRegRead
  split
  · exact ⟨rfl, rfl, nofun⟩
  · exact StatusKept.refl u
  · unfold ppuDataRead
    extract_lets a
    split <;> exact ⟨rfl, rfl, id⟩
  · exact StatusKept.refl u

theorem memRead_statusKept (a : Word) (s : State) : StatusKept s.ppu (memRead a s).2.ppu := by
  unfold memRead
  split
  · exact StatusKept.refl _
  · split
    · exact ppuRegRead_statusKept _ _ _
    · split
      · unfold ioRead
        split <;> exact StatusKept.refl _
      · split <;> exact StatusKept.refl _

theorem oamDmaLoop_statusKept (page : Byte) (l : List Nat) (s : State) :
    StatusKept s.ppu (oamDmaLoop page l s).ppu := by
  induction l generalizing s with
  | nil => exact StatusKept.refl _
  | cons i rest ih =>
    obtain ⟨hit, overflow, vblank⟩ := memRead_statusKept (mkWord page (BitVec.ofNat 8 i)) s
    refine StatusKept.trans ?_ (ih _)
    exact ⟨hit, overflow, vblank⟩

theorem memWrite_statusKept (a : Word) (v : Byte) (s : State) : StatusKept s.ppu (memWrite a v s).ppu := by
  unfold memWrite
  split
  · exact StatusKept.refl _
  · split
    · obtain ⟨_, _, _, _, _, _, _, _, _, _, _, h⟩ := ppuRegWrite_frame s.cart s.ppu (a.toNat % 8) v
      simp only [h]
      exact ⟨rfl, rfl, id⟩
    · split
      · unfold ioWrite
        split
        · exact oamDmaLoop_statusKept v _ s
        · split <;> exact StatusKept.refl _
      · exact StatusKept.refl _

/-- Device time stands still from `s` to `t` (20_memory.md R101; 48_sync_dma_joypad.md R401). -/
structure DeviceTimeStill (s t : State) : Prop where
  dot : t.ppu.dot = s.ppu.dot
  line : t.ppu.line = s.ppu.line
  bgLayer : t.ppu.bgLayer = s.ppu.bgLayer
  spriteLayer : t.ppu.spriteLayer = s.ppu.spriteLayer
  status : StatusKept s.ppu t.ppu
  acc : t.apu.acc = s.apu.acc
  totalCycles : t.totalCycles = s.totalCycles
  nmiPending : t.nmiPending = s.nmiPending
  frameReady : t.frameReady = s.frameReady

theorem DeviceTimeStill.refl (s : State) : DeviceTimeStill s s := ⟨rfl, rfl, rfl, rfl, .refl _, rfl, rfl, rfl, rfl⟩

theorem DeviceTimeStill.trans {s t u : State} (h : DeviceTimeStill s t) (k : DeviceTimeStill t u) :
    DeviceTimeStill s u :=
  ⟨k.dot.trans h.dot, k.line.trans h.line, k.bgLayer.trans h.bgLayer, k.spriteLayer.trans h.spriteLayer,
    h.status.trans k.status, k.acc.trans h.acc, k.totalCycles.trans h.totalCycles, k.nmiPending.trans h.nmiPending,
    k.frameReady.trans h.frameReady⟩

theorem memRead_deviceTimeStill (a : Word) (s : State) : DeviceTimeStill s (memRead a s).2 where
  dot := memRead_dot a s
  line := memRead_line a s
  bgLayer := memRead_bgLayer a s
  spriteLayer := memRead_spriteLayer a s
  status := memRead_statusKept a s
  acc := congrArg Apu.acc (memRead_apu a s)
  totalCycles := memRead_totalCycles a s
  nmiPending := memRead_nmiPending a s
  frameReady := memRead_frameReady a s

theorem memWrite_deviceTimeStill (a : Word) (v : Byte) (s : State) : DeviceTimeStill s (memWrite a v s) where
  dot := memWrite_dot a v s
  line := memWrite_line a v s
  bgLayer := memWrite_bgLayer a v s
  spriteLayer := memWrite_spriteLayer a v s
  status := memWrite_statusKept a v s
  acc := memWrite_acc a v s
  totalCycles := memWrite_totalCycles a v s
  nmiPending := memWrite_nmiPending a v s
  frameReady := memWrite_frameReady a v s

/-- No part of an instruction moves device time. -/
theorem stable_deviceTimeStill (s : State) : Stable (DeviceTimeStill s) where
  cpu h e := h.trans (by rw [e]; exact ⟨rfl, rfl, rfl, rfl, .refl _, rfl, rfl, rfl, rfl⟩)
  read a h := h.trans (memRead_deviceTimeStill a _)
  write a v h := h.trans (memWrite_deviceTimeStill a v _)

/-! ### The read instructions -/

/-- What a read instruction changes after it has read its operand, which leaves the state `m`: the register it names,
Z and N, and the flags its rule computes (40_load_store_transfer.md section 1; 41_arithmetic_logic.md sections 2 to 4). -/
structure ReadFrame (o : Op) (m t : State) : Prop where
  change : t = { m with a := t.a, x := t.x, y := t.y, p := t.p }
  a : o ∉ [.lda, .adc, .sbc, .and, .ora, .eor] → t.a = m.a
  x : o ≠ .ldx → t.x = m.x
  y : o ≠ .ldy → t.y = m.y
  flags : t.p = { m.p with n := t.p.n, v := t.p.v, z := t.p.z, c := t.p.c }
  v : o ∉ [.adc, .sbc, .bit] → t.p.v = m.p.v
  c : o ∉ [.adc, .sbc, .cmp, .cpx, .cpy] → t.p.c = m.p.c

theorem effect_readFrame {o : Op} (ho : o ∈ readOps) (x : Operand) (s : State) :
    ReadFrame o (operandByte x s).2 (effect o x s) := by
  cases o
  case lda | and | ora | eor => exact ⟨rfl, by simp, fun _ => rfl, fun _ => rfl, rfl, fun _ => rfl, fun _ => rfl⟩
  case ldx => exact ⟨rfl, fun _ => rfl, by simp, fun _ => rfl, rfl, fun _ => rfl, fun _ => rfl⟩
  case ldy => exact ⟨rfl, fun _ => rfl, fun _ => rfl, by simp, rfl, fun _ => rfl, fun _ => rfl⟩
  case adc | sbc => exact ⟨rfl, by simp, fun _ => rfl, fun _ => rfl, rfl, by simp, by simp⟩
  case cmp | cpx | cpy => exact ⟨rfl, fun _ => rfl, fun _ => rfl, fun _ => rfl, rfl, fun _ => rfl, by simp⟩
  case bit => exact ⟨rfl, fun _ => rfl, fun _ => rfl, fun _ => rfl, rfl, by simp, fun _ => rfl⟩
  all_goals simp [readOps] at ho

theorem inDeviceWindow_eq_false {a : Word} : inDeviceWindow a = false ↔ a.toNat ≤ 0x1FFF ∨ 0x4020 ≤ a.toNat := by
  simp only [inDeviceWindow, Bool.and_eq_false_iff, decide_eq_false_iff_not]
  omega

/-- Outside the device windows a read of the bus looks at work RAM and the cartridge only, and changes nothing
(20_memory.md R72). -/
theorem memRead_outside {a : Word} (h : inDeviceWindow a = false) (s : State) :
    memRead a s =
      (if a.toNat ≤ 0x1FFF then s.ram.read (a.toNat % 0x0800)
        else if a.toNat ≤ 0x7FFF then 0x00#8 else s.cart.prgByte a, s) := by
  obtain ram | above := inDeviceWindow_eq_false.mp h
  · rw [memRead_ram ram, if_pos ram]
  · rw [if_neg (by omega)]
    by_cases rom : 0x8000 ≤ a.toNat
    · rw [memRead_rom rom, if_neg (by omega)]
    · rw [memRead_unmapped above (by omega), if_pos (by omega)]

theorem peek_congr_outside {s t : State} {b : Word} (hb : inDeviceWindow b = false) (ram : t.ram = s.ram)
    (cart : t.cart = s.cart) : t.peek b = s.peek b := by
  simp only [State.peek, memRead_outside hb, ram, cart]

theorem operandByte_outside {x : Operand} {s : State}
    (h : ∀ f, x = .mem f → inDeviceWindow (resolve f s).ea = false) :
    (operandByte x s).2.ppu = s.ppu ∧ (operandByte x s).2.pad = s.pad := by
  cases x with
  | mem f => simp only [operandByte, memRead_outside (h f rfl), and_self]
  | _ => exact ⟨rfl, rfl⟩

end Sys2Proof.Machine

namespace Sys2Proof
open Machine

/-- Settles O12: an instruction is made of bus accesses and changes of CPU registers, and none of these moves device
time. -/
theorem deviceTimeStandsStillInAStep : Obligations.DeviceTimeStandsStillInAStep := by
  unfold Obligations.DeviceTimeStandsStillInAStep
  intro i s t h
  obtain rfl := exec_next h
  have still := (stable_deviceTimeStill s).effect (.refl s) i.op i.operand
  exact ⟨still.dot, still.line, still.bgLayer, still.spriteLayer, still.status.sprite0Hit,
    still.status.spriteOverflow, still.status.vblank, still.acc, still.totalCycles, still.nmiPending,
    still.frameReady⟩

/-- Settles O31: a read instruction reads its operand once and then writes registers and flags. -/
theorem frameOfReadInstructions : Obligations.FrameOfReadInstructions := by
  unfold Obligations.FrameOfReadInstructions
  intro i s t hi h
  obtain rfl := exec_next h
  obtain ⟨vb, w, rb, va, pad, ex, read⟩ := operandByte_frame i.operand s
  have f := effect_readFrame hi i.operand s
  rw [read] at f
  have same {α : Type} (g : State → α) := congrArg g f.change
  have flag {α : Type} (g : Flags → α) := congrArg g f.flags
  refine ⟨f.a, f.x, f.y, same (·.sp), same (·.pc), flag (·.b), flag (·.d), flag (·.i), f.v, f.c, same (·.ram),
    same (·.apu), same (·.nmiPending), same (·.totalCycles), same (·.cart), same (·.cfg),
    ⟨vb, w, rb, va, same (·.ppu)⟩, fun b hb => peek_congr_outside hb (same (·.ram)) (same (·.cart)),
    fun outside => ?_⟩
  obtain ⟨ppu, port⟩ := operandByte_outside outside
  rw [read] at ppu port
  exact ⟨(same (·.ppu)).trans ppu, (same (·.pad)).trans port⟩

end Sys2Proof
end

section
/-! The encoding: what a cell of the opcode map and its encodings have to do with each other, decoding and encoding as
inverses, and an instruction as its operation and operand (30_encoding.md R120 to R125, R141, R142, R150). -/

namespace Sys2Proof
open Machine

/-! ### The cells of the opcode map -/

/-- Whatever the operand, what the cell makes of it is encoded as the opcode byte `op` and that operand. -/
@[reducible] def Shape.Encodes (op : Byte) : Shape → Prop
  | .f1 i => encode i = [op]
  | .f2 mk => ∀ b, encode (mk b) = [op, b]
  | .f3 mk => ∀ w, encode (mk w) = [op, loByte w, hiByte w]

/-- The cell makes the instruction `i` of some operand. -/
@[reducible] def Shape.Makes (i : Instr) : Shape → Prop
  | .f1 j => j = i
  | .f2 mk => ∃ b, mk b = i
  | .f3 mk => ∃ w, mk w = i

/-- The opcode of an instruction names the cell that makes it: format F1 is the instructions without operand bytes. -/
theorem cell_of_instr (i : Instr) : ∃ sh, opcodeShape i.opcode = some sh ∧ sh.Encodes i.opcode ∧ sh.Makes i := by
  cases i
  case tax | tay | txa | tya | tsx | txs | inx | iny | dex | dey | aslAcc | lsrAcc | rolAcc | rorAcc | rts | pha | pla
      | php | plp | clc | sec | cli | sei | cld | sed | clv | nop | brk | rti =>
    exact ⟨_, rfl, rfl, rfl⟩
  all_goals
    simp only [Instr.opcode]
    refine ⟨_, rfl, ?_⟩
    exact ⟨fun _ => rfl, _, rfl⟩

theorem opcode_of_opcodeInstr : ∀ op, ∀ i ∈ opcodeInstr op, i.opcode = op := by decide +kernel

theorem decode_two_operand_bytes {op : Byte} {sh : Shape} (cell : opcodeShape op = some sh) (b1 b2 : Byte)
    (rest : List Byte) : ∃ i r, decode (op :: b1 :: b2 :: rest) = .ok i r := by
  cases sh <;> simp only [decode, cell, DecodeResult.ok.injEq] <;> exact ⟨_, _, rfl, rfl⟩

/-- A filled cell encodes as the opcode byte it stands at: it is the cell of one instruction that has this opcode. -/
theorem encodes_of_cell {op : Byte} {sh : Shape} (h : opcodeShape op = some sh) : sh.Encodes op := by
  obtain ⟨i, r, hi⟩ := decode_two_operand_bytes h 0x00#8 0x00#8 []
  obtain rfl := opcode_of_opcodeInstr op i (congrArg DecodeResult.instr? hi)
  obtain ⟨sh', cell, encodes, -⟩ := cell_of_instr i
  exact Option.some.inj (h.symm.trans cell) ▸ encodes

/-! ### Decoding and encoding are inverses -/

theorem decode_encode (i : Instr) (rest : List Byte) : decode (encode i ++ rest) = .ok i rest := by
  obtain ⟨sh, cell, encodes, makes⟩ := cell_of_instr i
  cases sh with
  | f1 j =>
    obtain rfl := makes
    rw [encodes]; exact decode_f1 cell rest
  | f2 mk =>
    obtain ⟨b, rfl⟩ := makes
    rw [encodes]; exact decode_f2 cell b rest
  | f3 mk =>
    obtain ⟨w, rfl⟩ := makes
    rw [encodes]; exact decode_f3 cell w rest

theorem encode_decode {bytes rest : List Byte} {i : Instr} (h : decode bytes = .ok i rest) :
    bytes = encode i ++ rest := by
  unfold decode at h
  split at h
  · cases h
  · next op tail =>
    split at h
    · cases h
    · next cell =>
      cases h
      rw [encodes_of_cell cell]; rfl
    · next cell =>
      split at h
      · cases h
        rw [encodes_of_cell cell]; rfl
      · cases h
    · next cell =>
      split at h
      · cases h
        rw [encodes_of_cell cell, loByte_mkWord, hiByte_mkWord]; rfl
      · cases h

theorem decode_of_encode {i : Instr} {bytes : List Byte} (h : encode i = bytes) : decode bytes = .ok i [] := by
  rw [← h, ← List.append_nil (encode i), decode_encode]

theorem encode_injective {i j : Instr} (h : encode i = encode j) : i = j :=
  (DecodeResult.ok.inj ((decode_of_encode rfl).symm.trans (decode_of_encode h.symm))).1

/-! ### Illegal opcodes -/

theorem decode_illegal_iff {op : Byte} {rest : List Byte} :
    decode (op :: rest) = .illegalOpcode op ↔ opcodeShape op = none := by
  refine ⟨fun h => ?_, fun h => decode_illegal h rest⟩
  cases cell : opcodeShape op with
  | none => rfl
  | some sh =>
    simp only [decode, cell] at h
    cases sh with
    | f1 i => cases h
    | f2 mk => cases rest <;> cases h
    | f3 mk => obtain _ | ⟨_, _ | _⟩ := rest <;> cases h

/-- The empty cells of the opcode map are the listed ones (30_encoding.md R151). -/
theorem opcodeShape_isNone : ∀ op : Byte, (opcodeShape op).isNone ↔ op.toNat ∈ illegalOpcodeValues := by
  decide +kernel

/-! ### Operations, operands and lengths -/

theorem Operand.bytes_length (x : Operand) : x.bytes.length = x.mode.operandBytes := by
  cases x with
  | mem f => cases f <;> rfl
  | _ => rfl

theorem word_bytes_inj {w w' : Word} : loByte w = loByte w' ∧ hiByte w = hiByte w' ↔ w = w' := by
  refine ⟨fun ⟨hl, hh⟩ => ?_, fun h => h ▸ ⟨rfl, rfl⟩⟩
  rw [← mkWord_hiByte_loByte w, hl, hh, mkWord_hiByte_loByte]

/-- A mode and its operand bytes give the operand. -/
theorem Operand.eq_of_bytes {x y : Operand} (hm : x.mode = y.mode) (hb : x.bytes = y.bytes) : x = y := by
  rcases x with _ | _ | _ | _ | _ | _ | _ | _ | _ | _ | _ | _ | _ <;>
    rcases y with _ | _ | _ | _ | _ | _ | _ | _ | _ | _ | _ | _ | _ <;> cases hm
  case imp.imp | acc.acc => rfl
  all_goals simpa [Operand.bytes, AddrForm.bytes, word_bytes_inj] using hb

theorem encode_length (i : Instr) : (encode i).length = i.length := by
  rw [encode, List.length_cons, Operand.bytes_length, Nat.add_comm]; rfl

theorem operandCount_opcode (i : Instr) : operandCount i.opcode = i.mode.operandBytes := by
  have count : (encode i).length = operandCount i.opcode + 1 := by
    obtain ⟨sh, cell, encodes, makes⟩ := cell_of_instr i
    rw [operandCount, cell]
    cases sh with
    | f1 j => obtain rfl := makes; rw [encodes]; rfl
    | f2 mk => obtain ⟨b, rfl⟩ := makes; rw [encodes]; rfl
    | f3 mk => obtain ⟨w, rfl⟩ := makes; rw [encodes]; rfl
  rw [encode_length, Instr.length] at count
  omega

/-- Operation and mode are the opcode's, whatever the operand (30_encoding.md R125). -/
theorem opcodeInstr_opcode (i : Instr) : ∃ j, opcodeInstr i.opcode = some j ∧ j.op = i.op ∧ j.mode = i.mode := by
  cases i <;> simp only [Instr.opcode] <;> exact ⟨_, rfl, rfl, rfl⟩

theorem op_mode_of_opcode {i j : Instr} (h : i.opcode = j.opcode) : i.op = j.op ∧ i.mode = j.mode := by
  obtain ⟨k, hk, hop, hmode⟩ := opcodeInstr_opcode i
  obtain ⟨k', hk', hop', hmode'⟩ := opcodeInstr_opcode j
  obtain rfl : k = k' := Option.some.inj (hk.symm.trans (h ▸ hk'))
  exact ⟨hop.symm.trans hop', hmode.symm.trans hmode'⟩

theorem row_mem_encodingsOf (i : Instr) : ⟨i.mode, i.opcode, i.length⟩ ∈ encodingsOf i.op := by
  obtain ⟨j, cell, hop, hmode⟩ := opcodeInstr_opcode i
  refine List.mem_filterMap.mpr ⟨i.opcode.toNat, List.mem_range.mpr i.opcode.isLt, ?_⟩
  simp only [BitVec.ofNat_toNat, BitVec.setWidth_eq, cell, hop, if_true, hmode, Instr.length]

theorem instr_of_mem_encodingsOf {o : Op} {r : EncodingRow} (h : r ∈ encodingsOf o) :
    ∃ i : Instr, i.op = o ∧ i.mode = r.mode := by
  obtain ⟨n, -, hn⟩ := List.mem_filterMap.mp h
  split at hn
  · next i _ =>
    split at hn
    · next ho => cases hn; exact ⟨i, ho, rfl⟩
    · cases hn
  · cases hn

theorem Op.exists_index (o : Op) : ∃ n < 56, Op.ofNat n = o :=
  ⟨o.ctorIdx, by cases o <;> decide, Op.ofNat_ctorIdx o⟩

/-- The opcode map holds each mode of an operation once (30_encoding.md R142). -/
theorem encodingsOf_modes (o : Op) : ((encodingsOf o).map (·.mode)).Perm o.modes ∧ o.modes.Nodup := by
  have all : ∀ n < 56, ((encodingsOf (.ofNat n)).map (·.mode)).Perm (Op.ofNat n).modes ∧ (Op.ofNat n).modes.Nodup := by
    decide +kernel
  obtain ⟨n, hn, rfl⟩ := o.exists_index
  exact all n hn

theorem instr_wellFormed (i : Instr) : i.wellFormed = true :=
  List.contains_iff_mem.mpr ((encodingsOf_modes i.op).1.mem_iff.mp (List.mem_map_of_mem (row_mem_encodingsOf i)))

theorem opcode_of_op_mode {i j : Instr} (hop : i.op = j.op) (hmode : i.mode = j.mode) : i.opcode = j.opcode := by
  obtain ⟨perm, nodup⟩ := encodingsOf_modes j.op
  exact congrArg EncodingRow.opcode (List.inj_on_of_nodup_map (perm.nodup_iff.mpr nodup)
    (hop ▸ row_mem_encodingsOf i) (row_mem_encodingsOf j) hmode)

theorem form_injective {i j : Instr} (h : i.form = j.form) : i = j := by
  obtain ⟨hop, hx⟩ := Form.mk.inj h
  have hopcode := opcode_of_op_mode hop (congrArg Operand.mode hx)
  exact encode_injective (congrArg₂ (fun op (x : Operand) => op :: x.bytes) hopcode hx)

/-- Operand bytes have no reserved values (30_encoding.md R152). -/
theorem exists_encode_eq (i : Instr) {bytes : List Byte} (h : bytes.length = i.mode.operandBytes) :
    ∃ j, encode j = i.opcode :: bytes := by
  obtain ⟨sh, cell, encodes, -⟩ := cell_of_instr i
  rw [← operandCount_opcode, operandCount, cell] at h
  cases sh with
  | f1 j =>
    obtain rfl := List.length_eq_zero_iff.mp h
    exact ⟨j, encodes⟩
  | f2 mk =>
    obtain ⟨b, rfl⟩ := List.length_eq_one_iff.mp h
    exact ⟨mk b, encodes b⟩
  | f3 mk =>
    obtain ⟨lo, hi, rfl⟩ := List.length_eq_two.mp h
    exact ⟨mk (mkWord hi lo), by rw [encodes, loByte_mkWord, hiByte_mkWord]⟩

theorem exists_instr_of_form {f : Form} (h : f.wellFormed = true) : ∃ i : Instr, i.form = f := by
  obtain ⟨o, x⟩ := f
  obtain ⟨r, hr, hm⟩ := List.mem_map.mp ((encodingsOf_modes o).1.mem_iff.mpr (List.contains_iff_mem.mp h))
  obtain ⟨j, rfl, hj⟩ := instr_of_mem_encodingsOf hr
  have hmode : j.mode = x.mode := hj.trans hm
  obtain ⟨i, hi⟩ := exists_encode_eq j (hmode ▸ x.bytes_length)
  obtain ⟨hopcode, hbytes⟩ := List.cons.inj hi
  obtain ⟨hop, himode⟩ := op_mode_of_opcode hopcode
  exact ⟨i, congrArg₂ Form.mk hop (Operand.eq_of_bytes (himode.trans hmode) hbytes)⟩

/-! ### The obligations -/

/-- Settles O1: the cell that the opcode names makes the instruction again from its operand bytes. -/
theorem decodeOfEncode : Obligations.DecodeOfEncode := by
  unfold Obligations.DecodeOfEncode
  exact decode_encode

/-- Settles O2: whatever the operand, a filled cell encodes as the opcode byte it was found at. -/
theorem encodeOfDecode : Obligations.EncodeOfDecode := by
  unfold Obligations.EncodeOfDecode
  exact fun _ _ _ h => encode_decode h

/-- Settles O4: an instruction is found from its operation and mode, which give the opcode, and its operand bytes. -/
theorem legalFormsAndLengths : Obligations.LegalFormsAndLengths := by
  unfold Obligations.LegalFormsAndLengths
  refine ⟨fun i => ⟨instr_wellFormed i, encode_length i, rfl, ?_, rfl, operandCount_opcode i⟩, fun f hf => ?_⟩
  · rw [Instr.length]
    cases i.mode <;> decide
  · obtain ⟨i, rfl⟩ := exists_instr_of_form hf
    exact ⟨i, rfl, fun j hj => form_injective hj⟩

/-- Settles O3: the decoder rejects the empty cells of the map, and the list names these. -/
theorem illegalOpcodesAreTheListed : Obligations.IllegalOpcodesAreTheListed := by
  unfold Obligations.IllegalOpcodesAreTheListed
  refine ⟨by decide, fun op b1 b2 rest => ⟨?_, fun legal => ?_⟩⟩
  · rw [decode_illegal_iff, ← Option.isNone_iff_eq_none, opcodeShape_isNone]
  · rw [← opcodeShape_isNone, Option.isNone_iff_eq_none, ← ne_eq, Option.ne_none_iff_exists'] at legal
    obtain ⟨sh, cell⟩ := legal
    exact decode_two_operand_bytes cell b1 b2 rest

/-- Settles O5: each of the samples is the encoding of its instruction, followed by nothing. -/
theorem sampleWordsDecode : Obligations.SampleWordsDecode := by
  unfold Obligations.SampleWordsDecode
  and_intros <;> exact decode_of_encode rfl

end Sys2Proof
end

section
/-! Fetching: from RAM or ROM byte by byte, and the instruction that a step fetches and runs (30_encoding.md R126;
20_memory.md R110; 48_sync_dma_joypad.md R400). -/

namespace Sys2Proof.Machine

/-- Bytes that are the encoding of an instruction are fetched as that instruction: the opcode alone says how many
operand bytes follow (30_encoding.md R126). -/
theorem fetchInstr_of_encode {i : Instr} {s : State} (h : (fetchBytes i.length s).1 = encode i) :
    fetchInstr s = { opcode := i.opcode, instr := some i, after := (fetchBytes i.length s).2 } := by
  have hlen : i.length = operandCount i.opcode + 1 := by
    rw [operandCount_opcode, Nat.add_comm]; rfl
  rw [hlen] at h ⊢
  obtain ⟨hop, hbytes⟩ := List.cons.inj h
  have decoded : decode (i.opcode :: i.operand.bytes) = .ok i [] := decode_of_encode rfl
  simp only [fetchInstr, hop, hbytes, decoded, DecodeResult.instr?, fetchBytes]

/-- A bus read of RAM or ROM changes nothing (20_memory.md R74, R78). -/
theorem memRead_storage {a : Word} (h : isStorage a = true) (s : State) : memRead a s = (s.peek a, s) := by
  obtain ram | rom : a.toNat ≤ 0x1FFF ∨ 0x8000 ≤ a.toNat := by simpa [isStorage] using h
  · rw [State.peek, memRead_ram ram]
  · rw [State.peek, memRead_rom rom]

theorem peek_setPc (s : State) (pc a : Word) : ({ s with pc := pc } : State).peek a = s.peek a :=
  peek_congr (fun _ => rfl) rfl rfl rfl rfl rfl

theorem fetchBytes_storage (n : Nat) (s : State) (h : ∀ k < n, isStorage (s.pc + BitVec.ofNat 16 k) = true) :
    fetchBytes n s =
      ((List.range n).map fun k => s.peek (s.pc + BitVec.ofNat 16 k), { s with pc := s.pc + BitVec.ofNat 16 n }) := by
  induction n generalizing s with
  | zero => simp [fetchBytes]
  | succ n ih =>
    have hpc (k : Nat) : s.pc + 1#16 + BitVec.ofNat 16 k = s.pc + BitVec.ofNat 16 (k + 1) := by
      rw [BitVec.ofNat_add, BitVec.add_assoc, BitVec.add_comm 1#16]
    have first : fetchByte s = (s.peek s.pc, { s with pc := s.pc + 1#16 }) := by
      rw [fetchByte, memRead_storage (by simpa using h 0 n.succ_pos)]
    have later := ih { s with pc := s.pc + 1#16 } fun k hk => by
      simpa only [hpc] using h (k + 1) (Nat.succ_lt_succ hk)
    simp [fetchBytes, first, later, hpc, peek_setPc, List.range_succ_eq_map, Function.comp_def]

/-- Reading the PPU status clears `vblank` (20_memory.md R83). -/
theorem memRead_status_vblank (s : State) : (memRead 0x2002#16 s).2.ppu.vblank = false := rfl

end Sys2Proof.Machine

namespace Sys2Proof
open Machine

/-- Settles O7: by induction on the number of bytes, each of which is one read that changes nothing. -/
theorem fetchFromStorage : Obligations.FetchFromStorage := by
  unfold Obligations.FetchFromStorage
  refine ⟨fun s => rfl, fun n s => rfl, fun s hs => ?_, fetchBytes_storage⟩
  exact (congrArg (fun a => (memRead a s).2.ppu.vblank) hs).trans (memRead_status_vblank s)

/-- Settles O6: the fetch of a step is the fetch of the encoding, and moves PC past it. -/
theorem stepRunsTheDecodedInstruction : Obligations.StepRunsTheDecodedInstruction := by
  unfold Obligations.StepRunsTheDecodedInstruction
  intro s i f hf
  obtain ⟨_, _, _, _, _, frame⟩ := fetchBytes_frame i.length (beginStep s)
  refine ⟨congrArg State.pc frame, ?_⟩
  simp only [step, fetchInstr_of_encode hf, exec_eq]
  rfl

end Sys2Proof
end

section
/-! Loads, stores and register transfers; a store always names an address (40_load_store_transfer.md R160 to R171). -/

namespace Sys2Proof.Machine

/-- `exec_eq` for an instruction of a known operation, whatever its addressing mode. -/
theorem exec_of_op {i : Instr} {o : Op} (h : i.op = o) (s : State) : exec i s = .next (effect o i.operand s) :=
  h ▸ exec_eq i s

/-! ### Stores -/

theorem operand_mode_mem_modes (i : Instr) : i.operand.mode ∈ i.op.modes :=
  List.contains_iff_mem.mp (instr_wellFormed i)

/-- No store has a mode without an effective address (30_encoding.md R142). -/
theorem addressless_not_mem_modes_of_store :
    ∀ o ∈ storeOps, .imp ∉ o.modes ∧ .acc ∉ o.modes ∧ .imm ∉ o.modes := by
  decide

theorem exists_operand_eq_mem_of_store {i : Instr} (h : i.op ∈ storeOps) : ∃ f, i.operand = .mem f := by
  obtain ⟨noImp, noAcc, noImm⟩ := addressless_not_mem_modes_of_store i.op h
  have legal := operand_mode_mem_modes i
  generalize i.operand = x at legal ⊢
  cases x with
  | mem f => exact ⟨f, rfl⟩
  | imp => exact absurd legal noImp
  | acc => exact absurd legal noAcc
  | imm v => exact absurd legal noImm

theorem memWrite_dmaTrigger (v : Byte) (s : State) : memWrite 0x4014#16 v s = oamDma v s := rfl

theorem oamDma_extra (page : Byte) (s : State) : (oamDma page s).extra = s.extra + s.cfg.dmaPenalty := by
  obtain ⟨_, _, _, _, _, _, h⟩ := oamDma_frame page s
  rw [h]

end Sys2Proof.Machine

namespace Sys2Proof
open Machine

/-- Settles O13: a load sets Z and N in the flags as they are after its read, and the read changes no flag. -/
theorem loadInstructions : Obligations.LoadInstructions := by
  unfold Obligations.LoadInstructions
  refine ⟨by decide +kernel, by decide +kernel, by decide +kernel, fun i s => ?_⟩
  rw [← operandByte_p i.operand s]
  exact ⟨fun lda => exec_of_op lda s, fun ldx => exec_of_op ldx s, fun ldy => exec_of_op ldy s⟩

/-- Settles O14: each store is one bus write at the address its operand names, and the window of the address says what
that write does. -/
theorem storeInstructions : Obligations.StoreInstructions := by
  unfold Obligations.StoreInstructions
  refine ⟨by decide +kernel, by decide +kernel, by decide +kernel, fun i s f operand => ?_,
    fun i => exists_operand_eq_mem_of_store, fun a v s => ⟨fun ram => ?_, fun above => ?_, ?_, ?_⟩⟩
  · have effectOf {o : Op} (h : i.op = o) : exec i s = .next (effect o (.mem f) s) := operand ▸ exec_of_op h s
    exact ⟨effectOf, effectOf, effectOf⟩
  · exact memWrite_ram (inRam_iff.mp ram) v s
  · exact memWrite_ignored above v s
  · exact memWrite_dmaTrigger v s
  · exact oamDma_extra v s

/-- Settles O15: a transfer has no operand, and what it does is what its operation says. -/
theorem transferInstructions : Obligations.TransferInstructions := by
  unfold Obligations.TransferInstructions
  refine ⟨by decide +kernel, by decide +kernel, by decide +kernel, by decide +kernel, by decide +kernel,
    by decide +kernel, fun s => ?_⟩
  exact ⟨exec_eq .tax s, exec_eq .tay s, exec_eq .txa s, exec_eq .tya s, exec_eq .tsx s, exec_eq .txs s⟩

end Sys2Proof
end

section
/-! Arithmetic, logic, increment and decrement: the carry and overflow of an addition, a subtraction as the addition of
the complement, and the operands of INC and DEC (41_arithmetic_logic.md R181 to R186, R191 to R196). -/

namespace Sys2Proof.Machine

/-! ### Signs of bytes -/

theorem bit01_le_one (b : Bool) : bit01 b ≤ 1 := by cases b <;> decide

theorem getLsbD_seven (v : Byte) : v.getLsbD 7 = decide (128 ≤ v.toNat) := BitVec.msb_eq_decide v

theorem toInt_complement (v : Byte) : (~~~v).toInt = -1 - v.toInt := by
  simp only [BitVec.toInt_eq_toNat_cond, BitVec.toNat_not]
  omega

/-- Signed overflow read off the sign bits of the operands and of the reduced sum (41_arithmetic_logic.md R181). -/
theorem signs_overflow_iff {a m r : Byte} {c : Nat} (hc : c ≤ 1) (hr : r.toNat = (a.toNat + m.toNat + c) % 256) :
    (a.getLsbD 7 = m.getLsbD 7 ∧ r.getLsbD 7 ≠ a.getLsbD 7) ↔
      a.toInt + m.toInt + c < -128 ∨ 127 < a.toInt + m.toInt + c := by
  simp only [getLsbD_seven, BitVec.toInt_eq_toNat_cond, decide_eq_decide, ne_eq]
  omega

/-! ### Addition -/

section addition
variable (a m : Byte) (p : Flags)

theorem adcResult_toNat : (adcResult a m p).value.toNat = (a.toNat + m.toNat + bit01 p.c) % 256 :=
  BitVec.toNat_ofNat ..

theorem adcResult_carry : (adcResult a m p).flags.c = true ↔ 255 < a.toNat + m.toNat + bit01 p.c :=
  decide_eq_true_iff

theorem adcResult_overflow_signs : (adcResult a m p).flags.v = true ↔
    a.getLsbD 7 = m.getLsbD 7 ∧ (adcResult a m p).value.getLsbD 7 ≠ a.getLsbD 7 := by
  simp only [adcResult, Flags.setZN_v, Bool.and_eq_true, beq_iff_eq, bne_iff_ne]

theorem adcResult_overflow_range : (adcResult a m p).flags.v = true ↔
    a.toInt + m.toInt + bit01 p.c < -128 ∨ 127 < a.toInt + m.toInt + bit01 p.c :=
  (adcResult_overflow_signs a m p).trans (signs_overflow_iff (bit01_le_one p.c) (adcResult_toNat a m p))

end addition

/-! ### Subtraction -/

section subtraction
variable (a m : Byte) (p : Flags)

theorem getLsbD_seven_complement : (~~~m).getLsbD 7 = !m.getLsbD 7 := by simp

/-- A subtraction is the addition of the operand's complement (41_arithmetic_logic.md R182). -/
theorem sbcResult_eq_adcResult : sbcResult a m p = adcResult a (~~~m) p := by
  have complement : m ^^^ 0xFF#8 = ~~~m := BitVec.xor_allOnes
  have signs : (a.getLsbD 7 != m.getLsbD 7) = (a.getLsbD 7 == !m.getLsbD 7) := by
    cases a.getLsbD 7 <;> cases m.getLsbD 7 <;> rfl
  simp only [sbcResult, adcResult, complement, signs, getLsbD_seven_complement]

theorem sbcResult_toNat : (sbcResult a m p).value.toNat = (a.toNat + (255 - m.toNat) + bit01 p.c) % 256 := by
  rw [sbcResult_eq_adcResult, adcResult_toNat, BitVec.toNat_not]

theorem sbcResult_carry :
    (sbcResult a m p).flags.c = true ↔ 0 ≤ (a.toNat : Int) - m.toNat - (1 - (bit01 p.c : Int)) := by
  rw [sbcResult_eq_adcResult, adcResult_carry, BitVec.toNat_not]
  omega

theorem sbcResult_overflow_signs : (sbcResult a m p).flags.v = true ↔
    a.getLsbD 7 ≠ m.getLsbD 7 ∧ (sbcResult a m p).value.getLsbD 7 ≠ a.getLsbD 7 := by
  rw [sbcResult_eq_adcResult, adcResult_overflow_signs, getLsbD_seven_complement, Bool.eq_not]

theorem sbcResult_overflow_range : (sbcResult a m p).flags.v = true ↔
    a.toInt - m.toInt - (1 - (bit01 p.c : Int)) < -128 ∨ 127 < a.toInt - m.toInt - (1 - (bit01 p.c : Int)) := by
  have sum : a.toInt - m.toInt - (1 - (bit01 p.c : Int)) = a.toInt + (~~~m).toInt + bit01 p.c := by
    rw [toInt_complement]
    omega
  rw [sbcResult_eq_adcResult, adcResult_overflow_range, sum]

end subtraction

/-! ### The operands of INC and DEC -/

theorem exists_operand_eq_mem_of_mode : ∀ {x : Operand}, x.mode ∉ [Mode.imp, .acc, .imm] → ∃ f, x = .mem f
  | .mem f, _ => ⟨f, rfl⟩
  | .imp, h | .acc, h | .imm _, h => absurd (by simp [Operand.mode]) h

/-- INC and DEC have no mode without an effective address (30_encoding.md R142). -/
theorem addressless_not_mem_modes_of_inc_dec :
    ∀ o ∈ [Op.inc, .dec], ∀ m ∈ o.modes, m ∉ [Mode.imp, .acc, .imm] := by
  decide

theorem exists_operand_eq_mem_of_inc_dec {i : Instr} (h : i.op ∈ [Op.inc, .dec]) : ∃ f, i.operand = .mem f :=
  exists_operand_eq_mem_of_mode (addressless_not_mem_modes_of_inc_dec i.op h _ (operand_mode_mem_modes i))

end Sys2Proof.Machine

namespace Sys2Proof
open Machine

/-- Settles O16: the operand's read changes neither A nor the flags, and the result, carry and overflow are those of the
exact sum, for SBC the sum with the operand's complement. -/
theorem addAndSubtract : Obligations.AddAndSubtract := by
  unfold Obligations.AddAndSubtract
  refine ⟨by decide +kernel, by decide +kernel, fun i s => ?_⟩
  rw [← operandByte_a i.operand s, ← operandByte_p i.operand s]
  intro m _
  constructor
  · intro adc
    let sum := adcResult m.2.a m.1 m.2.p
    exact ⟨sum.value, sum.flags.c, sum.flags.v, exec_of_op adc s, adcResult_toNat .., adcResult_carry ..,
      adcResult_overflow_signs .., adcResult_overflow_range ..⟩
  · intro sbc
    let difference := sbcResult m.2.a m.1 m.2.p
    exact ⟨difference.value, difference.flags.c, difference.flags.v, exec_of_op sbc s, sbcResult_toNat ..,
      sbcResult_carry .., sbcResult_overflow_signs .., sbcResult_overflow_range ..⟩

/-- Settles O17: the operand's read changes neither A nor the flags, and `setZN` leaves C and V. -/
theorem logicInstructions : Obligations.LogicInstructions := by
  unfold Obligations.LogicInstructions
  refine ⟨by decide +kernel, by decide +kernel, by decide +kernel, fun i s => ?_⟩
  rw [← operandByte_a i.operand s, ← operandByte_p i.operand s]
  exact ⟨fun and => exec_of_op and s, fun ora => exec_of_op ora s, fun eor => exec_of_op eor s⟩

/-- Settles O19: INC and DEC modify the byte their operand names, and the register forms have no operand. -/
theorem incrementAndDecrement : Obligations.IncrementAndDecrement := by
  unfold Obligations.IncrementAndDecrement
  refine ⟨by decide +kernel, by decide +kernel, by decide +kernel, by decide +kernel, by decide +kernel,
    by decide +kernel, fun i s f operand => ?_, fun i incOrDec => ?_, fun s => ?_⟩
  · have effectOf {o : Op} (h : i.op = o) : exec i s = .next (effect o (.mem f) s) := operand ▸ exec_of_op h s
    exact ⟨effectOf, effectOf⟩
  · exact exists_operand_eq_mem_of_inc_dec (by simpa using incOrDec)
  · exact ⟨exec_eq .inx s, exec_eq .iny s, exec_eq .dex s, exec_eq .dey s⟩

end Sys2Proof
end

section
/-! Shifts and rotates: the result of each as a number, the flags they share, and the operands they take
(42_shift_rotate.md R210 to R214). -/

namespace Sys2Proof.Machine

/-! ### Results -/

section result
variable (v : Byte) (p : Flags)

theorem shiftLeft_one_toNat : (v <<< 1).toNat = 2 * v.toNat % 256 := by
  rw [BitVec.toNat_shiftLeft, Nat.shiftLeft_eq, Nat.mul_comm]

theorem shiftRight_one_toNat : (v >>> 1).toNat = v.toNat / 2 := by
  rw [BitVec.toNat_ushiftRight, Nat.shiftRight_eq_div_pow]

theorem aslResult_toNat : (aslResult v p).value.toNat = 2 * v.toNat % 256 := shiftLeft_one_toNat v

theorem lsrResult_toNat : (lsrResult v p).value.toNat = v.toNat / 2 := shiftRight_one_toNat v

theorem carryBit_toNat (c : Bool) : (BitVec.ofNat 8 (bit01 c)).toNat = bit01 c := by cases c <;> rfl

theorem carryBit_shiftLeft_seven_toNat (c : Bool) : (BitVec.ofNat 8 (bit01 c) <<< 7).toNat = 128 * bit01 c := by
  cases c <;> rfl

/-- Bit 0 of the doubled byte is clear, so that putting the old carry there adds it (42_shift_rotate.md R213). -/
theorem rolResult_toNat : (rolResult v p).value.toNat = 2 * v.toNat % 256 + bit01 p.c := by
  have carry : bit01 p.c < 2 ^ 1 := Nat.lt_succ_of_le (bit01_le_one p.c)
  have even : 2 * v.toNat % 256 = 2 ^ 1 * (v.toNat % 128) := by omega
  rw [rolResult, BitVec.toNat_or, shiftLeft_one_toNat, carryBit_toNat, even, Nat.two_pow_add_eq_or_of_lt carry]

/-- Bit 7 of the halved byte is clear, so that putting the old carry there adds 128 for it (42_shift_rotate.md R214). -/
theorem rorResult_toNat : (rorResult v p).value.toNat = v.toNat / 2 + 128 * bit01 p.c := by
  have half : v.toNat / 2 < 2 ^ 7 := by omega
  rw [rorResult, BitVec.toNat_or, shiftRight_one_toNat, carryBit_shiftLeft_seven_toNat, Nat.or_comm,
    ← Nat.two_pow_add_eq_or_of_lt half, Nat.add_comm]

end result

/-! ### From the result of a byte to the rule of the operation -/

theorem modifyOperand_acc (g : Byte → Flags → AluResult) (s : State) :
    modifyOperand g .acc s = { s with a := (g s.a s.p).value, p := (g s.a s.p).flags } := rfl

/-- An operation that modifies its operand by `g` follows the shift rule if `g` gives the result and the new carry,
and takes Z and N from the result (42_shift_rotate.md R210). -/
theorem shiftRule_of_modifyOperand {o : Op} {g : Byte → Flags → AluResult} {result : Byte → Bool → Nat}
    {carry : Byte → Bool} (modifies : effect o = modifyOperand g)
    (value : ∀ v p, (g v p).value.toNat = result v p.c)
    (flags : ∀ v p, (g v p).flags = ({ p with c := carry v } : Flags).setZN (g v p).value) :
    ShiftRule o result carry := by
  intro i s op
  have runs : exec i s = .next (modifyOperand g i.operand s) := by rw [exec_of_op op, modifies]
  refine ⟨fun acc => ⟨(g s.a s.p).value, value s.a s.p, ?_⟩, fun f mem => ?_⟩
  · rw [runs, acc, modifyOperand_acc, flags]
    rfl
  · let m := (memRead (resolve f s).ea s).1
    refine ⟨(g m s.p).value, value m s.p, ?_⟩
    rw [runs, mem, modifyOperand, flags]
    rfl

/-! ### Operands -/

theorem operand_eq_acc_or_mem_of_mode : ∀ {x : Operand}, x.mode ∉ [Mode.imp, .imm] → x = .acc ∨ ∃ f, x = .mem f
  | .acc, _ => .inl rfl
  | .mem f, _ => .inr ⟨f, rfl⟩
  | .imp, h | .imm _, h => absurd (by simp [Operand.mode]) h

/-- Every mode of a shift or rotate names a byte to put the result in (30_encoding.md R142). -/
theorem imp_imm_not_mem_modes_of_shift :
    ∀ o ∈ [Op.asl, .lsr, .rol, .ror], ∀ m ∈ o.modes, m ∉ [Mode.imp, .imm] := by
  decide

theorem operand_eq_acc_or_mem_of_shift {i : Instr} (h : i.op ∈ [Op.asl, .lsr, .rol, .ror]) :
    i.operand = .acc ∨ ∃ f, i.operand = .mem f :=
  operand_eq_acc_or_mem_of_mode (imp_imm_not_mem_modes_of_shift i.op h _ (operand_mode_mem_modes i))

end Sys2Proof.Machine

namespace Sys2Proof
open Machine

/-- Settles O20: each operation modifies its operand by its result on bytes, which is a doubling or a halving with the
old carry in the bit that this leaves clear. -/
theorem shiftsAndRotates : Obligations.ShiftsAndRotates := by
  unfold Obligations.ShiftsAndRotates
  refine ⟨by decide +kernel, by decide +kernel, by decide +kernel, by decide +kernel,
    fun i => operand_eq_acc_or_mem_of_shift, ?asl, ?lsr, ?rol, ?ror⟩
  case asl => exact shiftRule_of_modifyOperand rfl aslResult_toNat fun _ _ => rfl
  case lsr => exact shiftRule_of_modifyOperand rfl lsrResult_toNat fun _ _ => rfl
  case rol => exact shiftRule_of_modifyOperand rfl rolResult_toNat fun _ _ => rfl
  case ror => exact shiftRule_of_modifyOperand rfl rorResult_toNat fun _ _ => rfl

end Sys2Proof
end

section
/-! Branches: the target as a number, and the state that a branch on a condition leaves (30_encoding.md R139;
43_control_flow.md R230 to R238). -/

namespace Sys2Proof.Machine

/-- The target of a branch is PC plus the signed offset, modulo 65536 (30_encoding.md R139). -/
theorem add_sext16_toNat (pc : Word) (off : Byte) :
    ((pc + sext16 off).toNat : Int) = ((pc.toNat : Int) + off.toInt) % 65536 := by
  rw [sext16, BitVec.signExtend, BitVec.toNat_add, BitVec.toNat_ofInt]
  omega

/-- A branch moves PC, or nothing (43_control_flow.md R230). -/
theorem goIf_rel (taken : Bool) (off : Byte) (s : State) :
    goIf taken (.mem (.rel off)) s = if taken then { s with pc := s.pc + sext16 off } else s := rfl

/-- An instruction whose operation is to go to its operand's address on a condition follows the branch rule
(43_control_flow.md R230). -/
theorem exec_branch {i : Instr} {off : Byte} {s : State} {taken : Bool}
    (branches : effect i.op i.operand s = goIf taken (.mem (.rel off)) s) :
    exec i s = .next (if taken then { s with pc := s.pc + sext16 off } else s) := by
  rw [exec_eq, branches, goIf_rel]

end Sys2Proof.Machine

namespace Sys2Proof
open Machine

/-- Settles O23: each branch goes to its target if the flag it tests has the value it tests for, and the target is PC
plus the signed offset. -/
theorem branchInstructions : Obligations.BranchInstructions := by
  unfold Obligations.BranchInstructions
  refine ⟨by decide +kernel, by decide +kernel, by decide +kernel, by decide +kernel, by decide +kernel,
    by decide +kernel, by decide +kernel, by decide +kernel, fun off pc => add_sext16_toNat pc off, fun off s => ?_⟩
  exact ⟨exec_branch rfl, exec_branch rfl, exec_branch rfl, exec_branch rfl, exec_branch rfl, exec_branch rfl,
    exec_branch rfl, exec_branch rfl⟩

end Sys2Proof
end

section
/-! The flag instructions, NOP and the return from interrupt (44_stack_flags_system.md R244 to R250, R255, R263). -/

namespace Sys2Proof.Machine

/-- A return from interrupt takes the status byte and PC from the three cells above SP
(44_stack_flags_system.md R263). -/
theorem returnFromInterrupt_threeCells (s : State) :
    returnFromInterrupt s = { s with
      p := Flags.unpack (s.ram.read (0x0100 + (s.sp + 1#8).toNat))
      pc := mkWord (s.ram.read (0x0100 + (s.sp + 3#8).toNat)) (s.ram.read (0x0100 + (s.sp + 2#8).toNat))
      sp := s.sp + 3#8 } := by
  have two : s.sp + 1#8 + 1#8 = s.sp + 2#8 := BitVec.add_assoc ..
  have three : s.sp + 2#8 + 1#8 = s.sp + 3#8 := BitVec.add_assoc ..
  rw [returnFromInterrupt_eq, two, three]

end Sys2Proof.Machine

namespace Sys2Proof
open Machine

/-- Settles O27: these instructions have no operand, and each does what its operation says. -/
theorem flagInstructionsAndNop : Obligations.FlagInstructionsAndNop := by
  unfold Obligations.FlagInstructionsAndNop
  refine ⟨by decide +kernel, by decide +kernel, by decide +kernel, by decide +kernel, by decide +kernel,
    by decide +kernel, by decide +kernel, by decide +kernel, fun s => ?_⟩
  exact ⟨exec_eq .clc s, exec_eq .sec s, exec_eq .cli s, exec_eq .sei s, exec_eq .cld s, exec_eq .sed s,
    exec_eq .clv s, exec_eq .nop s⟩

/-- Settles O29: RTI is three pulls, the first of which gives the status byte. -/
theorem returnFromInterruptInstruction : Obligations.ReturnFromInterruptInstruction := by
  unfold Obligations.ReturnFromInterruptInstruction
  exact ⟨by decide +kernel, fun s => congrArg Host.Outcome.next (returnFromInterrupt_threeCells s)⟩

end Sys2Proof
end

section
/-! Writes of the PPU registers: the window hands the byte to one register, and the VRAM address register puts it in
one half of the address (20_memory.md R75; 45_ppu_registers.md R273, R295). -/

namespace Sys2Proof.Machine

/-- A write of the PPU window goes to the register that the address modulo 8 names (20_memory.md R73, R75). -/
theorem memWrite_ppu {a : Word} {n : Nat} (h0 : 0x2000 ≤ a.toNat) (h1 : a.toNat ≤ 0x3FFF) (hn : a.toNat % 8 = n)
    (v : Byte) (s : State) : memWrite a v s = { s with ppu := ppuRegWrite s.cart s.ppu n v } := by
  have notRam : ¬a.toNat ≤ 0x1FFF := by omega
  rw [memWrite, if_neg notRam, if_pos h1, hn]

/-! ### A byte put in one half of a word, written with a mask -/

theorem mkWord_getLsbD (h l : Byte) (i : Nat) :
    (mkWord h l).getLsbD i = if i < 8 then l.getLsbD i else h.getLsbD (i - 8) := BitVec.getLsbD_append

theorem highByteMask_getLsbD : ∀ i < 16, (0xFF00#16).getLsbD i = decide (8 ≤ i) := by decide

theorem lowByteMask_getLsbD : ∀ i < 16, (0x00FF#16).getLsbD i = decide (i < 8) := by decide

theorem mkWord_hiByte_eq_or (w : Word) (v : Byte) : mkWord (hiByte w) v = (w &&& 0xFF00#16) ||| v.setWidth 16 := by
  refine BitVec.eq_of_getLsbD_eq fun i hi => ?_
  rw [mkWord_getLsbD, BitVec.getLsbD_or, BitVec.getLsbD_and, highByteMask_getLsbD i hi]
  by_cases low : i < 8
  · have notHigh : ¬8 ≤ i := by omega
    simp [low, notHigh, hi]
  · have high : 8 ≤ i := by omega
    have inByte : i - 8 < 8 := by omega
    simp [hiByte, low, high, hi, inByte]

theorem mkWord_loByte_eq_or (w : Word) (v : Byte) :
    mkWord v (loByte w) = (v.setWidth 16 <<< 8) ||| (w &&& 0x00FF#16) := by
  refine BitVec.eq_of_getLsbD_eq fun i hi => ?_
  rw [mkWord_getLsbD, BitVec.getLsbD_or, BitVec.getLsbD_and, lowByteMask_getLsbD i hi]
  by_cases low : i < 8
  · simp [loByte, low]
  · simp [low, hi]

/-- The VRAM address write in the form of R273's pseudocode (45_ppu_registers.md R273, R295). -/
theorem ppuAddrWrite_eq_or (u : Ppu) (v : Byte) :
    ppuAddrWrite u v =
      if u.w then { u with vramAddr := (u.vramAddr &&& 0xFF00#16) ||| v.setWidth 16, w := false }
      else { u with vramAddr := (v.setWidth 16 <<< 8) ||| (u.vramAddr &&& 0x00FF#16), w := true } := by
  rw [ppuAddrWrite, mkWord_hiByte_eq_or, mkWord_loByte_eq_or]

end Sys2Proof.Machine

namespace Sys2Proof
open Machine

/-- Settles O37: the write is one of the register that the address names, and each register's own definition says what
that does; the VRAM address register alone is defined by bytes where the statement has masks. -/
theorem ppuRegisterWrites : Obligations.PpuRegisterWrites := by
  unfold Obligations.PpuRegisterWrites
  intro a v s h0 h1
  have register {n : Nat} (hn : a.toNat % 8 = n) := memWrite_ppu h0 h1 hn v s
  refine ⟨register, register, register, register, register, register, fun six => ?_, register⟩
  rw [register six, ← ppuAddrWrite_eq_or]
  rfl

end Sys2Proof
end

section
/-! PPU time: the action of each line, the line ends that pass the 240/241 boundary, and frame ready, which no line end
reads (46_ppu_rendering_timing.md R320 to R327). -/

namespace Sys2Proof.Machine

/-! ### The action of each line -/

theorem endLine_visible {s : State} (h : s.ppu.line ≤ 239) :
    endLine s = { s with ppu := { renderLine s.cart s.ppu s.ppu.line with line := s.ppu.line + 1 } } := by
  have notEntry : ¬s.ppu.line + 1 = 241 := by omega
  have notLast : ¬s.ppu.line + 1 = 262 := by omega
  simp only [endLine, if_pos h, if_neg notEntry, if_neg notLast]

theorem endLine_vblankEntry {s : State} (h : s.ppu.line = 240) :
    endLine s = { s with
      ppu := { s.ppu with vblank := true, line := 241 }
      nmiPending := s.nmiPending || s.ppu.ctrl1.getLsbD 7
      frameReady := true } := by
  simp only [endLine, h]
  rfl

/-- Lines 241 to 260, and any line past the frame, have no action. -/
theorem endLine_blank {s : State} (h : 241 ≤ s.ppu.line) (h' : s.ppu.line ≠ 261) :
    endLine s = { s with ppu := { s.ppu with line := s.ppu.line + 1 } } := by
  have notVisible : ¬s.ppu.line ≤ 239 := by omega
  have notEntry : ¬s.ppu.line + 1 = 241 := by omega
  have notLast : ¬s.ppu.line + 1 = 262 := by omega
  simp only [endLine, if_neg notVisible, if_neg notEntry, if_neg notLast]

theorem endLine_last {s : State} (h : s.ppu.line = 261) :
    endLine s = { s with ppu := frameRestart s.ppu } := by
  simp only [endLine, h]
  rfl

/-- Every line is of one of the four kinds. -/
theorem line_cases (n : Nat) : n ≤ 239 ∨ n = 240 ∨ (241 ≤ n ∧ n ≠ 261) ∨ n = 261 := by omega

/-! ### Frame ready is a bystander of a line end -/

/-- The state with another value of frame ready. -/
def State.setReady (s : State) (r : Bool) : State := { s with frameReady := r }

/-- A line end does not read frame ready, and writes it only at line 240. -/
theorem endLine_setReady (s : State) (r : Bool) :
    endLine (s.setReady r) = (endLine s).setReady (r || decide (s.ppu.line = 240)) := by
  have hl : (s.setReady r).ppu.line = s.ppu.line := rfl
  obtain h | h | ⟨h, h'⟩ | h := line_cases s.ppu.line
  · have notEntry : s.ppu.line ≠ 240 := by omega
    rw [endLine_visible (hl ▸ h), endLine_visible h, decide_eq_false notEntry, Bool.or_false]
    rfl
  · rw [endLine_vblankEntry (hl ▸ h), endLine_vblankEntry h, decide_eq_true h, Bool.or_true]
    rfl
  · have notEntry : s.ppu.line ≠ 240 := by omega
    rw [endLine_blank (hl ▸ h) (hl ▸ h'), endLine_blank h h', decide_eq_false notEntry, Bool.or_false]
    rfl
  · have notEntry : s.ppu.line ≠ 240 := by omega
    rw [endLine_last (hl ▸ h), endLine_last h, decide_eq_false notEntry, Bool.or_false]
    rfl

/-- A line end requests an NMI only at line 240, and only if NMI is enabled (46_ppu_rendering_timing.md R326). -/
theorem endLine_nmiPending (s : State) :
    (endLine s).nmiPending = (s.nmiPending || (decide (s.ppu.line = 240) && s.ppu.ctrl1.getLsbD 7)) := by
  obtain h | h | ⟨h, h'⟩ | h := line_cases s.ppu.line
  · have notEntry : s.ppu.line ≠ 240 := by omega
    simp [endLine_visible h, notEntry]
  · simp [endLine_vblankEntry h, h]
  · have notEntry : s.ppu.line ≠ 240 := by omega
    simp [endLine_blank h h', notEntry]
  · simp [endLine_last h, h]

theorem endLine_ctrl1 (s : State) : (endLine s).ppu.ctrl1 = s.ppu.ctrl1 := by
  obtain ⟨_, _, _, _, _, _, _, h⟩ := endLine_frame s; rw [h]

/-! ### Several line ends -/

/-- Whether one of `n` line ends from line `l` on is that of line 240. -/
def passesVblank : Nat → Nat → Bool
  | 0, _ => false
  | n + 1, l => decide (l = 240) || passesVblank n (if l = 261 then 0 else l + 1)

theorem endLines_setReady (n : Nat) (s : State) (r : Bool) :
    endLines n (s.setReady r) = (endLines n s).setReady (r || passesVblank n s.ppu.line) := by
  induction n generalizing s r with
  | zero => rw [passesVblank, Bool.or_false]; rfl
  | succ n ih => rw [endLines, endLines, endLine_setReady, ih, endLine_line, passesVblank, Bool.or_assoc]

theorem endLines_nmiPending (n : Nat) (s : State) :
    (endLines n s).nmiPending = (s.nmiPending || (passesVblank n s.ppu.line && s.ppu.ctrl1.getLsbD 7)) := by
  induction n generalizing s with
  | zero => rw [passesVblank, Bool.false_and, Bool.or_false]; rfl
  | succ n ih =>
    rw [endLines, ih, endLine_nmiPending, endLine_line, endLine_ctrl1, passesVblank, Bool.and_or_distrib_right,
      Bool.or_assoc]

/-- From a line of the frame, line ends pass line 240 when one of them is at 240 modulo the 262 lines. -/
theorem passesVblank_iff (n : Nat) {l : Nat} (h : l ≤ 261) :
    passesVblank n l = true ↔ ∃ k < n, (l + k) % 262 = 240 := by
  induction n generalizing l with
  | zero => simp [passesVblank]
  | succ n ih =>
    have first : l = 240 ↔ (l + 0) % 262 = 240 := by omega
    have later (k : Nat) : ((if l = 261 then 0 else l + 1) + k) % 262 = (l + (k + 1)) % 262 := by split <;> omega
    rw [passesVblank, Bool.or_eq_true, decide_eq_true_iff, ih (by split <;> omega), Nat.exists_lt_succ_left, first]
    simp only [later]

/-! ### A run -/

/-- A run in one line, with frame ready apart: what it reports does not depend on what was reported before. -/
theorem ppuRun_eq_setReady (c : Nat) (s : State) :
    ppuRun c s = ((endLines ((s.ppu.dot + 3 * c) / 341) s).setDot ((s.ppu.dot + 3 * c) % 341)).setReady
      (passesVblank ((s.ppu.dot + 3 * c) / 341) s.ppu.line) := by
  have h := endLines_setReady ((s.ppu.dot + 3 * c) / 341) s false
  rw [Bool.false_or] at h
  rw [ppuRun_eq]
  exact congrArg (State.setDot · _) h

/-- A longer run goes on from where a shorter one ended, only without clearing frame ready. -/
theorem ppuRun_add (a b : Nat) (s : State) :
    ppuRun (a + b) s = (endLines (((ppuRun a s).ppu.dot + 3 * b) / 341) (ppuRun a s)).setDot
      (((ppuRun a s).ppu.dot + 3 * b) % 341) := by
  have lines : (s.ppu.dot + 3 * (a + b)) / 341 =
      (s.ppu.dot + 3 * a) / 341 + ((s.ppu.dot + 3 * a) % 341 + 3 * b) / 341 := by omega
  have dots : (s.ppu.dot + 3 * (a + b)) % 341 = ((s.ppu.dot + 3 * a) % 341 + 3 * b) % 341 := by omega
  rw [ppuRun_dot, ppuRun_eq, lines, dots, endLines_add, ppuRun_eq a, endLines_setDot, State.setDot_setDot]

theorem ppuRun_frameReady (c : Nat) (s : State) :
    (ppuRun c s).frameReady = passesVblank ((s.ppu.dot + 3 * c) / 341) s.ppu.line := by
  rw [ppuRun_eq_setReady]; rfl

theorem ppuRun_nmiPending (c : Nat) (s : State) :
    (ppuRun c s).nmiPending = (s.nmiPending || ((ppuRun c s).frameReady && s.ppu.ctrl1.getLsbD 7)) := by
  rw [ppuRun_frameReady, ppuRun_eq_setReady]
  exact endLines_nmiPending _ s

end Sys2Proof.Machine

namespace Sys2Proof
open Machine

/-- Settles O47: the longer run goes on from the shorter one, and its line ends keep what that one reported. -/
theorem ppuTimeDependsOnTheTotal : Obligations.PpuTimeDependsOnTheTotal := by
  unfold Obligations.PpuTimeDependsOnTheTotal
  intro a b s s1 s2
  have kept := endLines_setReady ((s1.ppu.dot + 3 * b) / 341) s1 s1.frameReady
  have second : s2 = _ := ppuRun_eq_setReady b s1
  calc ppuRun (a + b) s
      = (endLines ((s1.ppu.dot + 3 * b) / 341) (s1.setReady s1.frameReady)).setDot ((s1.ppu.dot + 3 * b) % 341) :=
        ppuRun_add a b s
    _ = s2.setReady (s1.frameReady || s2.frameReady) := by
        rw [kept, second]
        rfl

/-- Settles O48: a run reports frame ready when one of its line ends is that of line 240, and the NMI request goes with
the report. -/
theorem frameReadyAtVblankEntry : Obligations.FrameReadyAtVblankEntry := by
  unfold Obligations.FrameReadyAtVblankEntry
  intro c s ⟨hdot, hline⟩ t
  have dot : t.ppu.dot = (s.ppu.dot + 3 * c) % 341 := ppuRun_dot c s
  have line : t.ppu.line = (s.ppu.line + (s.ppu.dot + 3 * c) / 341) % 262 := ppuRun_line c s hline
  refine ⟨⟨by omega, by omega⟩, ?_, ?_, ppuRun_nmiPending c s⟩
  · rw [framePosition, framePosition, dot, line]; omega
  · rw [ppuRun_frameReady, passesVblank_iff _ hline, framePosition]
    constructor
    · rintro ⟨k, hk, at240⟩
      exact ⟨(s.ppu.line + k) / 262, by omega, by omega⟩
    · rintro ⟨frames, before, reached⟩
      exact ⟨262 * frames + 240 - s.ppu.line, by omega, by omega⟩

/-- Settles O49: the four kinds of line, and runs of no and of one line end. -/
theorem lineEnds : Obligations.LineEnds := by
  unfold Obligations.LineEnds
  intro s
  dsimp only
  refine ⟨endLine_visible, endLine_vblankEntry, fun h h' => endLine_blank h (by omega), endLine_last,
    fun c within => ?_, fun c wraps onlyOne => ?_⟩
  · rw [ppuRun_eq, Nat.div_eq_of_lt within, Nat.mod_eq_of_lt within]
    rfl
  · have one : (s.ppu.dot + 3 * c) / 341 = 1 := by omega
    have rest : (s.ppu.dot + 3 * c) % 341 = s.ppu.dot + 3 * c - 341 := by omega
    rw [ppuRun_eq, one, rest]
    exact (endLine_setDot { s with frameReady := false } _).symm

end Sys2Proof
end

section
/-! Rendering a line against the rules written out: the pixels of the two layers, cell by cell, and the two sprite flags
(46_ppu_rendering_timing.md R330 to R347). -/

namespace Sys2Proof.Machine

/-! ### Pixels -/

theorem bit01_eq_toNat (b : Bool) : bit01 b = b.toNat := by cases b <;> rfl

/-- A bit of a byte as a number, by division. -/
theorem bit01_getLsbD (v : Byte) (i : Nat) : bit01 (v.getLsbD i) = v.toNat / 2 ^ i % 2 :=
  (bit01_eq_toNat _).trans (Nat.toNat_testBit _ _)

/-- A bit field of a byte, by division. -/
theorem field_eq_div (v : Byte) (lo n : Nat) : field v lo n = v.toNat / 2 ^ lo % 2 ^ n := by
  rw [field, Nat.shiftRight_eq_div_pow]

theorem tilePixel_eq_patternPixel (cart : Cartridge) (u : Ppu) (base t fx fy : Nat) :
    tilePixel cart u base t fx fy = patternPixel cart u base t fx fy := by
  simp only [tilePixel, patternPixel, bit01_getLsbD]

/-! ### The scan of a line -/

/-- Rendering a line is the scan of all 64 entries, after a change of the background layer alone. -/
theorem renderLine_eq_spriteScan (cart : Cartridge) (u : Ppu) (l : Nat) :
    ∃ bg, renderLine cart u l = spriteScan cart l (List.range 64) 0 { u with bgLayer := bg } := by
  unfold renderLine spriteLine
  split
  · exact ⟨_, rfl⟩
  · exact ⟨u.bgLayer, rfl⟩

/-- The scan sets the overflow flag when the matches, with those before it, are nine or more
(46_ppu_rendering_timing.md R346). -/
theorem spriteScan_overflow (cart : Cartridge) (l : Nat) (is : List Nat) (count : Nat) (u : Ppu) (hc : count ≤ 8) :
    (spriteScan cart l is count u).spriteOverflow =
      (u.spriteOverflow ||
        decide (9 ≤ count + (is.filter fun i => (u.oam.read (4 * i)).toNat == l).length)) := by
  induction is generalizing count u with
  | nil =>
    have few : ¬9 ≤ count := by omega
    simp [spriteScan, few]
  | cons i rest ih =>
    unfold spriteScan
    by_cases hm : (u.oam.read (4 * i)).toNat = l
    · rw [if_neg (not_not.mpr hm), List.filter_cons_of_pos (by simpa using hm), List.length_cons]
      by_cases h8 : count = 8
      · have ninth (n : Nat) : 9 ≤ 8 + (n + 1) := by omega
        simp [h8, ninth]
      · obtain ⟨hit, sl, hf⟩ := spriteMatch_frame cart u l i
        rw [if_neg h8, ih _ _ (by omega), hf, Nat.add_assoc, Nat.add_comm 1]
    · rw [if_pos hm, ih _ _ hc, List.filter_cons_of_neg (by simpa using hm)]

theorem spritesDrawn_cons_match {u : Ppu} {l i : Nat} (h : (u.oam.read (4 * i)).toNat = l) (rest : List Nat)
    {count : Nat} (hc : count < 8) :
    spritesDrawn u l (i :: rest) count = i :: spritesDrawn u l rest (count + 1) := by
  have one : 8 - count = 8 - (count + 1) + 1 := by omega
  rw [spritesDrawn, List.filter_cons_of_pos (by simpa using h), one, List.take_succ_cons, spritesDrawn]

theorem spritesDrawn_cons_other {u : Ppu} {l i : Nat} (h : (u.oam.read (4 * i)).toNat ≠ l) (rest : List Nat)
    (count : Nat) : spritesDrawn u l (i :: rest) count = spritesDrawn u l rest count := by
  rw [spritesDrawn, List.filter_cons_of_neg (by simpa using h), spritesDrawn]

/-- The scan sets the sprite-0 flag when entry 0 is among those it draws (46_ppu_rendering_timing.md R345). -/
theorem spriteScan_hit (cart : Cartridge) (l : Nat) (is : List Nat) (count : Nat) (u : Ppu) (hc : count ≤ 8) :
    (spriteScan cart l is count u).sprite0Hit = (u.sprite0Hit || decide (0 ∈ spritesDrawn u l is count)) := by
  induction is generalizing count u with
  | nil => simp [spriteScan, spritesDrawn]
  | cons i rest ih =>
    unfold spriteScan
    by_cases hm : (u.oam.read (4 * i)).toNat = l
    · rw [if_neg (not_not.mpr hm)]
      by_cases h8 : count = 8
      · simp [h8, spritesDrawn]
      · have drawn : spritesDrawn (spriteMatch cart u l i) l rest (count + 1) = spritesDrawn u l rest (count + 1) := by
          obtain ⟨hit, sl, hf⟩ := spriteMatch_frame cart u l i
          rw [hf]; rfl
        have hit : (spriteMatch cart u l i).sprite0Hit = (u.sprite0Hit || decide (i = 0)) := by
          rw [spriteMatch_eq]; rfl
        rw [if_neg h8, ih _ _ (by omega), drawn, hit, spritesDrawn_cons_match hm rest (by omega)]
        simp [Bool.or_assoc, eq_comm]
    · rw [if_pos hm, ih _ _ hc, spritesDrawn_cons_other hm]

theorem zero_mem_spritesDrawn (u : Ppu) (l : Nat) :
    0 ∈ spritesDrawn u l (List.range 64) 0 ↔ (u.oam.read 0).toNat = l := by
  constructor
  · intro h
    simpa using (List.mem_filter.mp (List.mem_of_mem_take h)).2
  · intro h
    rw [spritesDrawn, List.range_succ_eq_map, List.filter_cons_of_pos (by simpa using h)]
    exact List.mem_cons_self

/-! ### The cells of a sprite -/

/-- A sprite's pixels do not depend on the sprite layer. -/
theorem spritePixelAt_spriteLayer (cart : Cartridge) (u : Ppu) (sl : Layer SpritePixel) (l : Nat) (t attr x : Byte)
    (y z : Nat) : spritePixelAt cart { u with spriteLayer := sl } l t attr x y z = spritePixelAt cart u l t attr x y z :=
  rfl

/-- The rule's pixel for row `r`, column `c` of the tile, in the model's terms (46_ppu_rendering_timing.md R341). -/
theorem spritePixelAt_tile (cart : Cartridge) (u : Ppu) (l : Nat) (t attr x : Byte) {r c : Nat} (hr : r < 8)
    (hc : c < 8) :
    let px := tilePixel cart u (tableBase u.spriteTable) t.toNat (if attr.getLsbD 6 then 7 - c else c)
      (if attr.getLsbD 7 then 7 - r else r)
    spritePixelAt cart u l t attr x (l + r) (x.toNat + c) =
      if px ≠ 0 then
        some { colour := paletteColour cart u (0x3F10 + 4 * field attr 0 2 + px), behind := attr.getLsbD 5 }
      else none := by
  simp only [spritePixelAt, Nat.add_sub_cancel_left, tilePixel_eq_patternPixel, field_eq_div, Nat.pow_zero, Nat.div_one]
  exact if_congr ⟨fun ⟨_, _, _, _, solid⟩ => solid,
    fun solid => ⟨by omega, by omega, by omega, by omega, solid⟩⟩ rfl rfl

/-- Drawing the pixel of row `r`, column `c` leaves in the one cell it can reach the sprite's pixel there, if it is
opaque (46_ppu_rendering_timing.md R341). -/
theorem drawSpritePixel_cell_eq_or (cart : Cartridge) (u : Ppu) (l : Nat) (t attr x : Byte) {r c y z : Nat}
    (hr : r < 8) (hc : c < 8) (hy : y < 240) (hz : z < 256) :
    (drawSpritePixel cart u l t attr x r c).spriteLayer.cell y z =
      if y = l + r ∧ z = x.toNat + c then (spritePixelAt cart u l t attr x y z).or (u.spriteLayer.cell y z)
      else u.spriteLayer.cell y z := by
  rw [drawSpritePixel_cell cart u l t attr x r c y z hy hz]
  by_cases here : y = l + r ∧ z = x.toNat + c
  · rw [if_pos here, here.1, here.2, spritePixelAt_tile cart u l t attr x hr hc,
      apply_ite (Option.or · (u.spriteLayer.cell (l + r) (x.toNat + c)))]
    exact if_congr (and_iff_left ⟨rfl, rfl⟩) rfl rfl
  · rw [if_neg here, if_neg fun h => here h.2]

/-- Drawing pixels of the tile changes the cells they reach, each to the sprite's pixel there, if it is opaque. -/
theorem drawSpritePixels_cell (cart : Cartridge) (u : Ppu) (l : Nat) (t attr x : Byte) {y z : Nat} (hy : y < 240)
    (hz : z < 256) (cells : List (Nat × Nat)) (inTile : ∀ rc ∈ cells, rc.1 < 8 ∧ rc.2 < 8) :
    (cells.foldl (fun u rc => drawSpritePixel cart u l t attr x rc.1 rc.2) u).spriteLayer.cell y z =
      if ∃ rc ∈ cells, y = l + rc.1 ∧ z = x.toNat + rc.2 then
        (spritePixelAt cart u l t attr x y z).or (u.spriteLayer.cell y z)
      else u.spriteLayer.cell y z := by
  induction cells generalizing u with
  | nil => simp
  | cons rc rest ih =>
    obtain ⟨hrc, hrest⟩ := List.forall_mem_cons.mp inTile
    have first := drawSpritePixel_cell_eq_or cart u l t attr x hrc.1 hrc.2 hy hz
    obtain ⟨sl, hf⟩ := drawSpritePixel_frame cart u l t attr x rc.1 rc.2
    have same : spritePixelAt cart (drawSpritePixel cart u l t attr x rc.1 rc.2) l t attr x y z =
        spritePixelAt cart u l t attr x y z := by rw [hf, spritePixelAt_spriteLayer]
    rw [List.foldl_cons, ih _ hrest, same, first]
    simp only [List.exists_mem_cons_iff]
    by_cases here : y = l + rc.1 ∧ z = x.toNat + rc.2
    · rw [if_pos here, if_pos (Or.inl here), ← Option.or_assoc, Option.or_self, ite_self]
    · simp only [here, if_false, false_or]

theorem mem_tileCells {rc : Nat × Nat} : rc ∈ tileCells ↔ rc.1 < 8 ∧ rc.2 < 8 := by
  obtain ⟨r, c⟩ := rc
  simp [tileCells]

/-- What drawing a sprite leaves in a cell (46_ppu_rendering_timing.md R341). -/
theorem drawSprite_cell (cart : Cartridge) (u : Ppu) (l : Nat) (t attr x : Byte) {y z : Nat} (hy : y < 240)
    (hz : z < 256) :
    (drawSprite cart u l t attr x).spriteLayer.cell y z =
      (spritePixelAt cart u l t attr x y z).or (u.spriteLayer.cell y z) := by
  rw [drawSprite, drawSpritePixels_cell cart u l t attr x hy hz tileCells fun _ => mem_tileCells.mp]
  split
  · rfl
  · next outside =>
    have noPixel : spritePixelAt cart u l t attr x y z = none := by
      refine if_neg ?_
      rintro ⟨top, bottom, left, right, -⟩
      exact outside ⟨(y - l, z - x.toNat), mem_tileCells.mpr ⟨by omega, by omega⟩, by omega, by omega⟩
    rw [noPixel, Option.none_or]

/-- What drawing a list of entries leaves in a cell: the pixel of the last that is opaque there. -/
theorem drawEntries_cell (cart : Cartridge) (u : Ppu) (l : Nat) (is : List Nat) {y z : Nat} (hy : y < 240)
    (hz : z < 256) :
    (is.foldl (drawEntry cart l) u).spriteLayer.cell y z = is.foldl (fun cell i =>
      (spritePixelAt cart u l (u.oam.read (4 * i + 1)) (u.oam.read (4 * i + 2)) (u.oam.read (4 * i + 3)) y z).or
        cell) (u.spriteLayer.cell y z) := by
  induction is generalizing u with
  | nil => rfl
  | cons i rest ih =>
    have first := drawSprite_cell cart u l (u.oam.read (4 * i + 1)) (u.oam.read (4 * i + 2)) (u.oam.read (4 * i + 3))
      hy hz
    obtain ⟨sl, hf⟩ := drawSprite_frame cart u l (u.oam.read (4 * i + 1)) (u.oam.read (4 * i + 2))
      (u.oam.read (4 * i + 3))
    rw [List.foldl_cons, List.foldl_cons, ih, drawEntry, first, hf]
    rfl

end Sys2Proof.Machine

namespace Sys2Proof
open Machine

/-- Settles O50: the scan counts the matches up to the ninth, and entry 0, the first looked at, is always among the
first eight. -/
theorem spriteFlags : Obligations.SpriteFlags := by
  unfold Obligations.SpriteFlags
  intro cart u l t matching
  obtain ⟨bg, scan⟩ := renderLine_eq_spriteScan cart u l
  have entryZero := zero_mem_spritesDrawn { u with bgLayer := bg } l
  constructor
  · show (renderLine cart u l).sprite0Hit = _
    rw [scan, spriteScan_hit _ _ _ _ _ (Nat.zero_le 8), decide_eq_decide.mpr entryZero]
  · show (renderLine cart u l).spriteOverflow = _
    rw [scan, spriteScan_overflow _ _ _ _ _ (Nat.zero_le 8), Nat.zero_add]

/-- Settles O51: the scan leaves the background layer alone, and a band's cells are the rule's pixels, written with
division for the model's bit fields. -/
theorem backgroundBand : Obligations.BackgroundBand := by
  unfold Obligations.BackgroundBand
  intro cart u l y x hl hy hx base sx sy table tx ty tile attr pal px
  have pixel : bgPixelAt cart u y x =
      { colour := (ppuRead cart u (0x3F00 + 4 * pal + px)).setWidth 6, solid := decide (px ≠ 0) } := by
    have solid : (px != 0) = decide (px ≠ 0) := by rw [decide_not]; rfl
    simp only [bgPixelAt, field_eq_div, tilePixel_eq_patternPixel]
    rw [← solid]
    rfl
  unfold renderLine spriteLine
  rw [spriteScan_bgLayer]
  by_cases band : l % 8 = 0 ∧ u.bgEnable = true
  · rw [if_pos band, renderBand_cell cart u l y x hx, pixel]
    exact if_congr ⟨fun rows => ⟨band.1, band.2, rows⟩, fun ⟨_, _, rows⟩ => rows⟩ rfl rfl
  · rw [if_neg band, if_neg fun h => band ⟨h.1, h.2.1⟩]

/-- Settles O52: the 64 cells of the tile are those where the rule gives the sprite a pixel. -/
theorem spritePixels : Obligations.SpritePixels := by
  unfold Obligations.SpritePixels
  intro cart u l y z t attr x hy hz
  exact drawSprite_cell cart u l t attr x hy hz

/-- Settles O60: the scan draws the first eight matching entries in turn, each over the cells before it. -/
theorem spriteLineDrawsTheFirstEight : Obligations.SpriteLineDrawsTheFirstEight := by
  unfold Obligations.SpriteLineDrawsTheFirstEight
  intro cart u l t drawn
  obtain ⟨bg, scan⟩ := renderLine_eq_spriteScan cart u l
  have layer := spriteScan_layer cart l (List.range 64) 0 { u with bgLayer := bg } (Nat.zero_le 8)
  rw [← scan] at layer
  constructor
  · intro disabled
    exact layer.trans (if_neg (by rw [Ppu.spriteEnable, disabled]; exact Bool.false_ne_true))
  · intro enabled y z hy hz
    rw [layer.trans (if_pos enabled), drawEntries_cell _ _ _ _ hy hz]
    rfl

end Sys2Proof
end

section
/-! The end of a step: the cycles it counts, the time it gives the PPU and the APU, and that the three clocks agree
(30_encoding.md R140; 47_apu_channels.md R380; 48_sync_dma_joypad.md R400 to R404; 70_reset_and_hazards.md R491). -/

namespace Sys2Proof.Machine

/-! ### APU time -/

theorem apuRun_acc {h : Nat} (hh : 0 < h) (c : Nat) (u : Apu) : (apuRun h c u).acc = (u.acc + c) % h := by
  rw [apuRun_eq hh]; rfl

/-- The half-frames of a longer run are those of a shorter one and those that the rest of it fills up. -/
theorem halfFrame_count_add {h : Nat} (hh : 0 < h) (acc a b : Nat) :
    (acc + (a + b)) / h = (acc + a) / h + ((acc + a) % h + b) / h := by
  have split : acc + (a + b) = ((acc + a) % h + b) + h * ((acc + a) / h) := by
    have := Nat.mod_add_div (acc + a) h
    omega
  rw [split, Nat.add_mul_div_left _ _ hh, Nat.add_comm]

theorem apuRun_add {h : Nat} (hh : 0 < h) (a b : Nat) (u : Apu) :
    apuRun h b (apuRun h a u) = apuRun h (a + b) u := by
  have rest : (u.acc + (a + b)) % h = ((u.acc + a) % h + b) % h := by rw [Nat.mod_add_mod, Nat.add_assoc]
  rw [apuRun_eq hh b, apuRun_acc hh, apuRun_eq hh a, apuRun_eq hh (a + b), halfFrames_setAcc, Apu.setAcc_setAcc,
    halfFrame_count_add hh, halfFrames_add, rest]

/-! ### The clocks -/

theorem endStep_totalCycles (op : Byte) (s : State) : (endStep op s).totalCycles = s.totalCycles + stepCycles op s := by
  rw [endStep_eq]
  exact ppuRun_totalCycles _ _

theorem ClocksAgree.of_sameTime {s t : State} (h : ClocksAgree s) (same : SameTime s t) : ClocksAgree t := by
  obtain ⟨halfFrame, ⟨dot, line⟩, ppu, apu⟩ := h
  exact ⟨same.cfg ▸ halfFrame, ⟨same.dot ▸ dot, same.line ▸ line⟩,
    by rw [same.totalCycles, same.line, same.dot, ppu], by rw [same.totalCycles, same.cfg, same.acc, apu]⟩

/-- The end of a step gives each of the three clocks the same count of cycles (48_sync_dma_joypad.md R402, R404). -/
theorem ClocksAgree.endStep {s : State} (h : ClocksAgree s) (op : Byte) : ClocksAgree (endStep op s) := by
  obtain ⟨halfFrame, counters, ppu, apu⟩ := h
  let c := stepCycles op s
  obtain ⟨counters', position, -⟩ := frameReadyAtVblankEntry c
    { s with totalCycles := s.totalCycles + c, extra := 0 } ⟨counters.dot, counters.line⟩
  have agree : 3 * (s.totalCycles + c) % (341 * 262) = (341 * s.ppu.line + s.ppu.dot + 3 * c) % (341 * 262) := by
    rw [← ppu, Nat.mod_add_mod, Nat.mul_add]
  refine ⟨endStep_cfg op s ▸ halfFrame, ?_, ?_, ?_⟩
  · rw [endStep_eq]
    exact ⟨counters'.dot, counters'.line⟩
  · rw [endStep_totalCycles, endStep_eq]
    exact agree.trans position.symm
  · rw [endStep_totalCycles, endStep_cfg, endStep_eq, apuRun_acc halfFrame, ← apu, Nat.mod_add_mod]

/-! ### The additional cycles of an instruction -/

theorem resolve_extra (f : AddrForm) (s : State) : (resolve f s).after.extra = s.extra := by
  obtain ⟨_, _, _, _, _, h⟩ := resolve_frame f s; rw [h]

@[simp] theorem push_extra (v : Byte) (s : State) : (push v s).extra = s.extra := by rw [push_eq]

@[simp] theorem pull_extra (s : State) : (pull s).2.extra = s.extra := by rw [pull_eq]

/-- What reading an operand adds: the charge of a page crossing (30_encoding.md R140). -/
def crossingCharge : Operand → State → Nat
  | .mem f, s => crossingCost f s
  | _, _ => 0

/-- What storing to an operand adds: the penalty of an OAM DMA (48_sync_dma_joypad.md R412). -/
def dmaCharge : Operand → State → Nat
  | .mem f, s => if (resolve f s).ea = 0x4014#16 then s.cfg.dmaPenalty else 0
  | _, _ => 0

theorem operandByte_extra (x : Operand) (s : State) : (operandByte x s).2.extra = s.extra + crossingCharge x s := by
  cases x with
  | mem f => exact memRead_extra ..
  | _ => rfl

theorem store_extra (x : Operand) (v : Byte) (s : State) :
    (memWrite (operandAddress x s) v s).extra = s.extra + dmaCharge x s := by
  cases x <;> exact memWrite_extra ..

theorem modifyOperand_extra (g : Byte → Flags → AluResult) (x : Operand) (s : State) :
    (modifyOperand g x s).extra = s.extra + dmaCharge x s := by
  cases x with
  | mem f => simp only [modifyOperand, memWrite_extra, memRead_extra, memRead_cfg, dmaCharge]
  | _ => rfl

theorem jumpOperand_extra (x : Operand) (s : State) : (jumpOperand x s).extra = s.extra := by
  cases x with
  | mem f => exact resolve_extra f s
  | _ => rfl

theorem callOperand_extra (x : Operand) (s : State) : (callOperand x s).extra = s.extra := by
  cases x with
  | mem f => simp only [callOperand, callTo, push_extra, resolve_extra]
  | _ => rfl

theorem goIf_extra (cond : Bool) (x : Operand) (s : State) : (goIf cond x s).extra = s.extra := by
  cases cond <;> rfl

theorem effect_extra_of_read {o : Op} (h : o ∈ readOps) (x : Operand) (s : State) :
    (effect o x s).extra = s.extra + crossingCharge x s := by
  rw [← operandByte_extra]
  exact congrArg (·.extra) (effect_readFrame h x s).change

theorem effect_extra_of_write {o : Op} (h : o ∈ storeOps ++ modifyOps) (x : Operand) (s : State) :
    (effect o x s).extra = s.extra + dmaCharge x s := by
  cases o
  case sta | stx | sty => exact store_extra ..
  case inc | dec | asl | lsr | rol | ror => exact modifyOperand_extra ..
  all_goals simp [storeOps, modifyOps] at h

theorem effect_extra_of_other {o : Op} (hr : o ∉ readOps) (hw : o ∉ storeOps ++ modifyOps) (x : Operand)
    (s : State) : (effect o x s).extra = s.extra := by
  cases o
  case tax | tay | txa | tya | tsx | txs | inx | iny | dex | dey | clc | sec | cli | sei | cld | sed | clv | nop => rfl
  case bpl | bmi | bvc | bvs | bcc | bcs | bne | beq => exact goIf_extra ..
  case jmp => exact jumpOperand_extra ..
  case jsr => exact callOperand_extra ..
  case pha | php => exact push_extra ..
  case pla | plp => exact pull_extra s
  case rts => rw [effect, returnFromCall_eq]
  case rti => rw [effect, returnFromInterrupt_eq]
  case brk =>
    rw [effect]
    split
    · rfl
    · rw [interrupt_eq]
  all_goals simp [readOps, storeOps, modifyOps] at hr hw

theorem additionalCycles_of_read {i : Instr} (h : i.op ∈ readOps) (s : State) :
    additionalCycles i s = crossingCharge i.operand s := by
  unfold additionalCycles
  cases i.operand with
  | mem f => exact if_pos h
  | _ => rfl

theorem additionalCycles_of_not_read {i : Instr} (h : i.op ∉ readOps) (s : State) :
    additionalCycles i s = if i.op ∈ storeOps ++ modifyOps then dmaCharge i.operand s else 0 := by
  unfold additionalCycles
  cases i.operand with
  | mem f => exact (if_neg h).trans (ite_and ..)
  | _ => exact (ite_self 0).symm

/-- An instruction adds the cycles that its operation and operand ask for, and no others (30_encoding.md R140;
48_sync_dma_joypad.md R412). -/
theorem effect_extra (i : Instr) (s : State) :
    (effect i.op i.operand s).extra = s.extra + additionalCycles i s := by
  by_cases read : i.op ∈ readOps
  · rw [effect_extra_of_read read, additionalCycles_of_read read]
  · rw [additionalCycles_of_not_read read]
    by_cases write : i.op ∈ storeOps ++ modifyOps
    · rw [effect_extra_of_write write, if_pos write]
    · rw [effect_extra_of_other read write, if_neg write, Nat.add_zero]

/-- A step comes to its instruction with no additional cycles: neither the poll nor the fetch costs any
(60_exceptions.md R440). -/
theorem fetchInstr_beginStep_extra (s : State) : (fetchInstr (beginStep s)).after.extra = 0 := by
  obtain ⟨_, _, _, _, _, begun⟩ := beginStep_frame s
  obtain ⟨_, _, _, _, _, fetched⟩ :=
    fetchBytes_frame (operandCount (fetchByte (beginStep s)).1 + 1) (beginStep s)
  rw [fetchInstr_after, fetched, begun]

/-! ### Illegal opcodes -/

theorem fetchBytes_length (n : Nat) (s : State) : (fetchBytes n s).1.length = n := by
  induction n generalizing s with
  | zero => rfl
  | succ n ih => exact congrArg Nat.succ (ih (fetchByte s).2)

/-- A legal opcode and as many bytes as it asks for are an instruction (30_encoding.md R124, R152). -/
theorem decode_legal {op : Byte} (legal : op.toNat ∉ illegalOpcodeValues) {bytes : List Byte}
    (h : bytes.length = operandCount op) : ∃ i, decode (op :: bytes) = .ok i [] := by
  rw [← opcodeShape_isNone, Option.isNone_iff_eq_none, ← ne_eq, Option.ne_none_iff_exists'] at legal
  obtain ⟨sh, cell⟩ := legal
  obtain ⟨i, r, decoded⟩ := decode_two_operand_bytes cell 0x00#8 0x00#8 []
  obtain rfl := opcode_of_opcodeInstr op i (congrArg DecodeResult.instr? decoded)
  obtain ⟨j, encoded⟩ := exists_encode_eq i (h.trans (operandCount_opcode i))
  exact ⟨j, decode_of_encode encoded⟩

theorem fetchInstr_illegal {s : State} (h : (s.peek s.pc).toNat ∈ illegalOpcodeValues) :
    (fetchInstr s).instr = none := by
  have cell := Option.isNone_iff_eq_none.mp ((opcodeShape_isNone _).mpr h)
  exact congrArg DecodeResult.instr? (decode_illegal cell _)

theorem fetchInstr_legal {s : State} (h : (s.peek s.pc).toNat ∉ illegalOpcodeValues) :
    ∃ i, (fetchInstr s).instr = some i := by
  obtain ⟨i, decoded⟩ := decode_legal h (fetchBytes_length (operandCount (fetchByte s).1) (fetchByte s).2)
  exact ⟨i, congrArg DecodeResult.instr? decoded⟩

theorem step_illegal {s : State} (h : ((beginStep s).peek (beginStep s).pc).toNat ∈ illegalOpcodeValues) :
    step s = .fault (.illegalOpcode ((beginStep s).peek (beginStep s).pc) (beginStep s).pc) := by
  rw [step, fetchInstr_illegal h]
  rfl

theorem step_legal {s : State} (h : ((beginStep s).peek (beginStep s).pc).toNat ∉ illegalOpcodeValues) :
    ∃ t, step s = .next t := by
  obtain ⟨i, fetched⟩ := fetchInstr_legal h
  refine ⟨endStep i.opcode (effect i.op i.operand (fetchInstr (beginStep s)).after), ?_⟩
  simp only [step, fetched, exec_eq]

end Sys2Proof.Machine

namespace Sys2Proof
open Machine

/-- Settles O59: up to its end a step moves none of the clocks, and its end moves all three by the same count. -/
theorem clocksAgreeAfterEveryStep : Obligations.ClocksAgreeAfterEveryStep := by
  unfold Obligations.ClocksAgreeAfterEveryStep
  intro s t agree h
  obtain ⟨op, s', same, rfl⟩ := step_next_sameTime h
  exact (agree.of_sameTime same).endStep op

/-- Settles O46: a run does one half-frame for every whole one in the accumulator and keeps the remainder. -/
theorem apuTimeDependsOnTheTotal : Obligations.ApuTimeDependsOnTheTotal := by
  unfold Obligations.ApuTimeDependsOnTheTotal
  intro h a b u hh
  refine ⟨apuRun_add hh a b u, apuRun_acc hh a u, fun short => ?_, fun _ full => ?_⟩
  · rw [apuRun_eq hh, Nat.div_eq_of_lt short, Nat.mod_eq_of_lt short]
    rfl
  · rw [apuRun_eq hh, full, Nat.div_self hh, Nat.mod_self]
    rfl

/-- Settles O8: PPU time leaves the APU, the executed cycles and the additional cycles alone. -/
theorem endOfStepAdvancesTime : Obligations.EndOfStepAdvancesTime := by
  unfold Obligations.EndOfStepAdvancesTime
  intro op s c u
  exact ⟨endStep_eq op s, ppuRun_apu .., ppuRun_totalCycles .., ppuRun_extra .., ppuRun_dot ..⟩

/-- Settles O9: the step comes to its instruction with no additional cycles, and its end counts those that the
instruction adds. -/
theorem cyclesOfAStep : Obligations.CyclesOfAStep := by
  unfold Obligations.CyclesOfAStep
  intro s t h
  obtain ⟨i, fetched, rfl⟩ := step_next h
  have same := ((beginStep_time s).trans (fetchInstr_time _)).trans (effect_time i.op i.operand _)
  refine ⟨i, fetched, ?_, endStep_extra ..⟩
  rw [endStep_totalCycles, stepCycles, same.totalCycles, same.cfg, effect_extra, fetchInstr_beginStep_extra,
    Nat.zero_add, Nat.add_assoc]

/-- Settles O10: an illegal opcode byte is no instruction, and any other is one with the bytes after it. -/
theorem stepStopsOnlyOnIllegalOpcodes : Obligations.StepStopsOnlyOnIllegalOpcodes := by
  unfold Obligations.StepStopsOnlyOnIllegalOpcodes
  intro s s0
  by_cases illegal : (s0.peek s0.pc).toNat ∈ illegalOpcodeValues
  · have stops := step_illegal illegal
    refine ⟨fun r h => ?_, fun fault => ⟨fun h => ⟨illegal, ?_⟩, fun h => ?_⟩, absurd illegal⟩
    · cases stops.symm.trans h
    · exact Host.Outcome.fault.inj (h.symm.trans stops)
    · rw [h.2, stops]
  · obtain ⟨t, goesOn⟩ := step_legal illegal
    refine ⟨fun r h => ?_, fun fault => ⟨fun h => ?_, fun h => absurd h.1 illegal⟩, fun _ => ⟨t, goesOn⟩⟩
    · cases goesOn.symm.trans h
    · cases goesOn.symm.trans h

end Sys2Proof
end

section
/-! Interrupts: the poll, the entry of a handler and BRK, and that RTI undoes an entry (44_stack_flags_system.md section
4; 60_exceptions.md sections 1 to 3). -/

namespace Sys2Proof.Machine

/-- The vectors lie in program ROM (20_memory.md R79). -/
theorem vectorWord_eq_peek (k : InterruptKind) (s : State) :
    vectorWord s.cart k = mkWord (s.peek (interruptVector k + 1#16)) (s.peek (interruptVector k)) := by
  have low : 0x8000 ≤ (interruptVector k).toNat := by cases k <;> decide
  have high : 0x8000 ≤ (interruptVector k + 1#16).toNat := by cases k <;> decide
  rw [State.peek, State.peek, memRead_rom low, memRead_rom high, vectorWord]

theorem interruptVector_eq (k : InterruptKind) : interruptVector k = if k = .nmi then 0xFFFA#16 else 0xFFFE#16 := by
  cases k <;> rfl

/-- An entry with the stack pointer counted from its old value (60_exceptions.md R445). -/
theorem interrupt_eq_pushedThree (k : InterruptKind) (s : State) :
    interrupt k s = { s with
      ram := pushedThree s.ram s.sp (hiByte s.pc) (loByte s.pc) (s.p.pack (decide (k = .brk)))
      sp := s.sp - 3#8
      p := { s.p with b := decide (k = .brk), i := true }
      pc := vectorWord s.cart k } := by
  have two : s.sp - 1#8 - 1#8 = s.sp - 2#8 := BitVec.sub_sub ..
  have three : s.sp - 2#8 - 1#8 = s.sp - 3#8 := BitVec.sub_sub ..
  rw [interrupt_eq, two, three, pushedThree]

/-! ### The three pushed bytes -/

section pushedThree
variable (m : Memory) (sp b1 b2 b3 : Byte)

theorem pushedThree_read_first : (pushedThree m sp b1 b2 b3).read (0x0100 + sp.toNat) = b1 := by
  have second : 0x0100 + sp.toNat ≠ 0x0100 + (sp - 1#8).toNat := stackCell_ne (by bv_omega)
  have third : 0x0100 + sp.toNat ≠ 0x0100 + (sp - 2#8).toNat := stackCell_ne (by bv_omega)
  rw [pushedThree, Memory.read_write_other _ _ third, Memory.read_write_other _ _ second, Memory.read_write_same]

theorem pushedThree_read_second : (pushedThree m sp b1 b2 b3).read (0x0100 + (sp - 1#8).toNat) = b2 := by
  have third : 0x0100 + (sp - 1#8).toNat ≠ 0x0100 + (sp - 2#8).toNat := stackCell_ne (by bv_omega)
  rw [pushedThree, Memory.read_write_other _ _ third, Memory.read_write_same]

theorem pushedThree_read_third : (pushedThree m sp b1 b2 b3).read (0x0100 + (sp - 2#8).toNat) = b3 :=
  Memory.read_write_same ..

end pushedThree

/-- A return from interrupt pulls the three bytes that an entry pushed, last first (60_exceptions.md R445, R450). -/
theorem returnFromInterrupt_interrupt (k : InterruptKind) (s : State) :
    returnFromInterrupt (interrupt k s) = { s with
      ram := pushedThree s.ram s.sp (hiByte s.pc) (loByte s.pc) (s.p.pack (decide (k = .brk)))
      p := { s.p with b := decide (k = .brk) } } := by
  have third : s.sp - 3#8 + 1#8 = s.sp - 2#8 := by bv_omega
  have second : s.sp - 3#8 + 2#8 = s.sp - 1#8 := by bv_omega
  have first : s.sp - 3#8 + 3#8 = s.sp := BitVec.sub_add_cancel ..
  simp only [returnFromInterrupt_threeCells, interrupt_eq_pushedThree, third, second, first, pushedThree_read_first,
    pushedThree_read_second, pushedThree_read_third, Flags.unpack_pack, mkWord_hiByte_loByte]

/-- With gating on and I set, BRK does nothing (44_stack_flags_system.md R262). -/
theorem exec_brk_gated {s : State} (h : (s.cfg.brkGated && s.p.i) = true) : exec .brk s = .next s := if_pos h

theorem exec_brk_enters {s : State} (h : (s.cfg.brkGated && s.p.i) = false) :
    exec .brk s = .next (interrupt .brk { s with pc := s.pc + 1#16 }) := if_neg (Bool.not_eq_true _ ▸ h)

end Sys2Proof.Machine

namespace Sys2Proof
open Machine

/-- Settles O55: the three cells above the lowered stack pointer hold the bytes of the entry. -/
theorem returnUndoesInterruptEntry : Obligations.ReturnUndoesInterruptEntry := by
  unfold Obligations.ReturnUndoesInterruptEntry
  exact fun k s => congrArg Host.Outcome.next (returnFromInterrupt_interrupt k s)

/-- Settles O53: an entry is three pushes and the read of a vector, which lies in program ROM. -/
theorem interruptEntry : Obligations.InterruptEntry := by
  unfold Obligations.InterruptEntry
  intro k s v
  have vector : interruptVector k = v := interruptVector_eq k
  rw [interrupt_eq_pushedThree, vectorWord_eq_peek, vector]

/-- Settles O54: the poll asks for the NMI first, and for the interrupt line only when none is pending. -/
theorem interruptPoll : Obligations.InterruptPoll := by
  unfold Obligations.InterruptPoll
  intro s s0
  have line (noNmi : s.nmiPending = false) :
      beginStep s = if (s.irqLine && !s.p.i) = true then interrupt .irq s0 else s0 :=
    if_neg (Bool.not_eq_true _ ▸ noNmi)
  refine ⟨fun nmi => if_pos nmi, fun noNmi high unmasked => ?_, fun noNmi lowOrMasked => ?_⟩
  · rw [line noNmi, high, unmasked]
    rfl
  · rw [line noNmi, if_neg]
    obtain low | masked := lowOrMasked
    · simp [low]
    · simp [masked]

/-- Settles O28: gated, BRK does nothing; else it is an entry from the address after the skipped byte. -/
theorem softwareInterrupt : Obligations.SoftwareInterrupt := by
  unfold Obligations.SoftwareInterrupt
  refine ⟨by decide +kernel, fun s => ⟨fun gated => ?_, fun ungated => ?_⟩⟩
  · exact exec_brk_gated (Bool.and_eq_true_iff.mpr gated)
  · have vector : vectorWord s.cart .brk = mkWord (s.peek 0xFFFF#16) (s.peek 0xFFFE#16) := vectorWord_eq_peek .brk s
    rw [exec_brk_enters (Bool.and_eq_false_iff.mpr ungated), interrupt_eq_pushedThree, ← vector]
    rfl

end Sys2Proof
end

section
/-! The APU channels: what a write of each register stores, the status byte, and what a half-frame does to the lengths
and the sweeps (47_apu_channels.md sections 1 to 4). -/

namespace Sys2Proof.Machine

/-! ### The two halves of a period, written with masks -/

theorem periodHighMask_getLsbD : ∀ i < 11, (0x700#11).getLsbD i = decide (8 ≤ i) := by decide

theorem periodLowMask_getLsbD : ∀ i < 11, (0x0FF#11).getLsbD i = decide (i < 8) := by decide

theorem periodLow_eq_or (p : BitVec 11) (v : Byte) : periodLow p v = (p &&& 0x700#11) ||| v.setWidth 11 := by
  refine BitVec.eq_of_getLsbD_eq fun i hi => ?_
  rw [periodLow, BitVec.getLsbD_append, BitVec.getLsbD_or, BitVec.getLsbD_and, periodHighMask_getLsbD i hi]
  by_cases low : i < 8
  · have notHigh : ¬8 ≤ i := by omega
    simp [low, notHigh, hi]
  · have high : 8 ≤ i := by omega
    have inField : i - 8 < 3 := by omega
    simp [low, high, inField]

theorem periodHigh_eq_or (p : BitVec 11) (v : Byte) :
    periodHigh p v = (p &&& 0x0FF#11) ||| ((v.extractLsb' 0 3).setWidth 11 <<< 8) := by
  refine BitVec.eq_of_getLsbD_eq fun i hi => ?_
  rw [periodHigh, BitVec.getLsbD_append, BitVec.getLsbD_or, BitVec.getLsbD_and, periodLowMask_getLsbD i hi]
  by_cases low : i < 8
  · simp [low]
  · have inField : i - 8 < 3 := by omega
    simp [low, hi, inField]

/-- The selector of a length register is the byte divided by 8 (47_apu_channels.md R370, R372). -/
theorem lengthOf_eq (v : Byte) : lengthOf v = lengthTable.getD (v.toNat / 8) 0x00#8 := by
  have selector : field v 3 5 = v.toNat / 8 := by
    have := v.isLt
    rw [field, Nat.shiftRight_eq_div_pow]
    omega
  rw [lengthOf, selector]

/-! ### Register writes -/

theorem apuWrite_noise (u : Apu) {k : Nat} (hk : k < 4) (v : Byte) :
    apuWrite u (0x400C + k) v = { u with noiseReg := u.noiseReg.write k v } := by
  obtain rfl | rfl | rfl | rfl : k = 0 ∨ k = 1 ∨ k = 2 ∨ k = 3 := by omega
  all_goals rfl

theorem apuWrite_ignored (u : Apu) {a : Nat} (h : a ∈ [0x4009, 0x4010, 0x4011, 0x4012, 0x4013] ∨ 0x4017 ≤ a)
    (v : Byte) : apuWrite u a v = u := by
  simp only [List.mem_cons, List.not_mem_nil, or_false] at h
  rw [apuWrite, if_neg (by omega), if_neg (by omega), if_neg (by omega), if_neg (by omega), if_neg (by omega),
    if_neg (by omega), if_neg (by omega)]

/-! ### The status byte -/

theorem bit01_bne_zero (v : Byte) : bit01 (v != 0x00#8) = min 1 v.toNat := by
  by_cases zero : v = 0x00#8
  · rw [zero]; rfl
  · have positive : v.toNat ≠ 0 := fun h => zero (BitVec.eq_of_toNat_eq h)
    rw [bne_iff_ne.mpr zero, bit01, if_pos rfl]
    omega

theorem apuStatusByte_toNat (u : Apu) :
    (apuStatusByte u).toNat =
      min 1 u.pulse1.length.toNat + 2 * min 1 u.pulse2.length.toNat + 4 * min 1 u.triLength.toNat := by
  simp only [apuStatusByte, toNat_append_ofBool, bit01_bne_zero, BitVec.toNat_ofNat]
  omega

/-- No APU register but the status has a value to read, and none is changed by it (47_apu_channels.md R366). -/
theorem memRead_apu_window {a : Word} (h0 : 0x4000 ≤ a.toNat) (h1 : a.toNat ≤ 0x401F) (hj : a ≠ 0x4016#16)
    (s : State) : memRead a s = (if a = 0x4015#16 then apuStatusByte s.apu else 0x00#8, s) := by
  have notRam : ¬a.toNat ≤ 0x1FFF := by omega
  have notPpu : ¬a.toNat ≤ 0x3FFF := by omega
  have status : a.toNat = 0x4015 ↔ a = 0x4015#16 := BitVec.toNat_inj (y := 0x4015#16)
  simp only [memRead, if_neg notRam, if_neg notPpu, if_pos h1, ioRead, if_neg hj, apuRead, status]

/-! ### A half-frame -/

theorem halfFrame_eq (u : Apu) :
    halfFrame u = { u with
      pulse1 := pulseSweepClock (pulseLengthClock u.pulse1)
      pulse2 := pulseSweepClock (pulseLengthClock u.pulse2)
      triLength := if u.triCtrl.getLsbD 7 = true ∨ u.triLength = 0x00#8 then u.triLength
        else u.triLength - 1#8 } := by
  rw [halfFrame, triLengthClock_eq]

/-- A length that is halted stays; another counts down to zero and stays there (47_apu_channels.md R381). -/
theorem lengthClock_toNat (halt : Bool) (l : Byte) :
    (if halt = true ∨ l = 0x00#8 then l else l - 1#8).toNat = if halt then l.toNat else l.toNat - 1 := by
  cases halt with
  | true => simp
  | false =>
    by_cases zero : l = 0x00#8
    · simp [zero]
    · have positive : l.toNat ≠ 0 := fun h => zero (BitVec.eq_of_toNat_eq h)
      simp only [zero, Bool.false_eq_true, or_false, if_false]
      bv_omega

theorem pulseSweepClock_length (p : Pulse) : (pulseSweepClock p).length = p.length := by
  obtain ⟨_, _, _, h⟩ := pulseSweepClock_frame p; rw [h]

theorem pulseClock_length_toNat (p : Pulse) :
    (pulseSweepClock (pulseLengthClock p)).length.toNat =
      if p.halt then p.length.toNat else p.length.toNat - 1 := by
  rw [pulseSweepClock_length, pulseLengthClock_eq]
  exact lengthClock_toNat p.halt p.length

/-! ### The sweep unit -/

theorem sweepTarget_eq (p : Pulse) :
    sweepTarget p = if p.swNegate then p.period.toNat - p.period.toNat / 2 ^ p.swShift.toNat
      else p.period.toNat + p.period.toNat / 2 ^ p.swShift.toNat := by
  rw [sweepTarget, Nat.shiftRight_eq_div_pow]

theorem sweepActs_iff (p : Pulse) :
    sweepActs p = true ↔ p.swDiv = 0#3 ∧ p.swEnable = true ∧ 0 < p.swShift.toNat ∧ 8 ≤ p.period.toNat ∧
      sweepTarget p ≤ 0x7FF := by
  simp only [sweepActs, Bool.and_eq_true, beq_iff_eq, decide_eq_true_eq, and_assoc]

/-- A sweep clock changes the period by the guards, and divider and reload request by whether it reloads
(47_apu_channels.md R382). -/
theorem pulseSweepClock_eq (p : Pulse) :
    pulseSweepClock p = { p with
      period := if sweepActs p then BitVec.ofNat 11 (sweepTarget p) else p.period
      swDiv := if p.swDiv = 0#3 ∨ p.swReload = true then p.swRate else p.swDiv - 1#3
      swReload := if p.swDiv = 0#3 ∨ p.swReload = true then false else p.swReload } := by
  simp only [pulseSweepClock, Bool.or_eq_true, beq_iff_eq]
  by_cases acts : sweepActs p = true <;> by_cases reloads : p.swDiv = 0#3 ∨ p.swReload = true
  all_goals simp only [acts, reloads, Bool.false_eq_true, if_true, if_false]

/-- The guards keep the target in the 11 bits of the period, so that it is the new period exactly. -/
theorem pulseSweepClock_period_toNat {p : Pulse} (acts : sweepActs p = true) :
    (pulseSweepClock p).period.toNat = sweepTarget p := by
  obtain ⟨-, -, -, -, bound⟩ := (sweepActs_iff p).mp acts
  rw [pulseSweepClock_eq, if_pos acts, BitVec.toNat_ofNat]
  omega

theorem sub_one_toNat_of_ne_zero {d : BitVec 3} (h : d ≠ 0#3) : (d - 1#3).toNat = d.toNat - 1 := by
  have positive : d.toNat ≠ 0 := fun e => h (BitVec.eq_of_toNat_eq e)
  bv_omega

end Sys2Proof.Machine

namespace Sys2Proof
open Machine

/-- Settles O43: the registers do what their definitions say, once halves of a period are written with masks. -/
theorem apuRegisterWrites : Obligations.ApuRegisterWrites := by
  unfold Obligations.ApuRegisterWrites
  refine ⟨fun a v s h0 h1 hd hj => memWrite_apu h0 h1 hd hj v s, fun u v => ?_⟩
  simp only [← periodLow_eq_or, ← periodHigh_eq_or, ← lengthOf_eq]
  exact ⟨⟨rfl, rfl, rfl, rfl⟩, ⟨rfl, rfl, rfl, rfl⟩, rfl, rfl, rfl, fun k hk => apuWrite_noise u hk v, rfl,
    fun a h => apuWrite_ignored u h v⟩

/-- Settles O44: the sweep clock leaves the length alone, so that a half-frame changes it by the length clock only. -/
theorem lengthCountersAndStatus : Obligations.LengthCountersAndStatus := by
  unfold Obligations.LengthCountersAndStatus
  refine ⟨rfl, fun u => ?_, fun a s h0 h1 hj => ?_⟩
  · rw [halfFrame_eq]
    exact ⟨pulseClock_length_toNat u.pulse1, pulseClock_length_toNat u.pulse2, lengthClock_toNat _ u.triLength⟩
  · rw [memRead_apu_window h0 h1 hj, apply_ite BitVec.toNat, apuStatusByte_toNat]
    exact ⟨rfl, rfl⟩

/-- Settles O45: the period is that of the guards, and the divider that of the reload. -/
theorem sweepClock : Obligations.SweepClock := by
  unfold Obligations.SweepClock
  refine ⟨fun u => ?_, fun p => ?_⟩
  · simp only [halfFrame_eq, pulseLengthClock_eq]
  · simp only [← sweepTarget_eq, ← sweepActs_iff]
    refine ⟨?_, pulseSweepClock_period_toNat, fun idle => ?_, fun reloads => ?_, fun counts => ?_⟩
    · rw [pulseSweepClock_eq]
    · rw [pulseSweepClock_eq, if_neg idle]
    · rw [pulseSweepClock_eq, if_pos reloads, if_pos reloads]
      exact ⟨rfl, rfl⟩
    · rw [pulseSweepClock_eq, if_neg counts, if_neg counts]
      exact ⟨sub_one_toNat_of_ne_zero fun zero => counts (.inl zero), rfl⟩

end Sys2Proof
end

section
/-! The bus windows: the PPU registers as they are read, the addresses in no window, the copy of OAM DMA, and the joypad
(20_memory.md section 1; 45_ppu_registers.md sections 1 to 6; 48_sync_dma_joypad.md sections 2 and 3). -/

namespace Sys2Proof.Machine

/-! ### The PPU registers -/

/-- A read of the PPU window is one of the register that the address modulo 8 names (20_memory.md R72, R75). -/
theorem memRead_ppu {a : Word} {n : Nat} (h0 : 0x2000 ≤ a.toNat) (h1 : a.toNat ≤ 0x3FFF) (hn : a.toNat % 8 = n)
    (s : State) :
    memRead a s = ((ppuRegRead s.cart s.ppu n).1, { s with ppu := (ppuRegRead s.cart s.ppu n).2 }) := by
  have notRam : ¬a.toNat ≤ 0x1FFF := by omega
  rw [memRead, if_neg notRam, if_pos h1, hn]

theorem ppuRegister_toNat {n : Nat} (h : n < 8) : (0x2000#16 + BitVec.ofNat 16 n).toNat = 0x2000 + n := by
  rw [BitVec.toNat_add, BitVec.toNat_ofNat, BitVec.toNat_ofNat]
  omega

theorem toNat_append_zeros {n : Nat} (x : BitVec n) : (x ++ 0#5).toNat = 32 * x.toNat := by
  rw [BitVec.toNat_append, BitVec.toNat_ofNat, Nat.zero_mod, Nat.or_zero, Nat.shiftLeft_eq, Nat.mul_comm]

theorem Ppu.statusByte_toNat (u : Ppu) :
    u.statusByte.toNat = 128 * bit01 u.vblank + 64 * bit01 u.sprite0Hit + 32 * bit01 u.spriteOverflow := by
  have top : (BitVec.ofBool u.vblank).toNat = bit01 u.vblank := by cases u.vblank <;> rfl
  rw [Ppu.statusByte, toNat_append_zeros, toNat_append_ofBool, toNat_append_ofBool, top]
  omega

theorem ppuDataRead_buffered {u : Ppu} (h : u.vramAddr.toNat % 0x4000 < 0x3F00) (cart : Cartridge) :
    ppuDataRead cart u = (u.readBuffer,
      { u with readBuffer := ppuRead cart u (u.vramAddr.toNat % 0x4000), vramAddr := u.vramAddr + u.vramStep }) :=
  if_pos h

theorem ppuDataRead_palette {u : Ppu} (h : 0x3F00 ≤ u.vramAddr.toNat % 0x4000) (cart : Cartridge) :
    ppuDataRead cart u = (ppuRead cart u (u.vramAddr.toNat % 0x4000),
      { u with readBuffer := ppuRead cart u (u.vramAddr.toNat % 0x4000 - 0x1000),
               vramAddr := u.vramAddr + u.vramStep }) :=
  if_neg (Nat.not_lt.mpr h)

/-! ### The ROM window -/

/-- One bank fills half of the window, so that it is read again in the other half (20_memory.md R78). -/
theorem prgByte_add_0x4000 {c : Cartridge} (one : c.prgBanks = .one) {a : Word} (h0 : 0x8000 ≤ a.toNat)
    (h1 : a.toNat ≤ 0xBFFF) : c.prgByte (a + 0x4000#16) = c.prgByte a := by
  have size : c.prgSize = 16384 := by rw [Cartridge.prgSize, one]
  have sum : (a + 0x4000#16).toNat = a.toNat + 0x4000 := by bv_omega
  have offset : c.prgOffset (a + 0x4000#16) = c.prgOffset a := by
    rw [Cartridge.prgOffset, Cartridge.prgOffset, size, sum]
    omega
  rw [Cartridge.prgByte, Cartridge.prgByte, offset]

/-! ### OAM DMA -/

/-- Copy one byte of a page into OAM, where `base` is the OAM address (48_sync_dma_joypad.md R410). -/
def copyOamByte (page base : Byte) (s : State) (i : Nat) : State :=
  let r := memRead (mkWord page (BitVec.ofNat 8 i)) s
  { r.2 with ppu.oam := r.2.ppu.oam.write ((base.toNat + i) % 256) r.1 }

@[simp] theorem copyOamByte_oamAddr (page base : Byte) (s : State) (i : Nat) :
    (copyOamByte page base s i).ppu.oamAddr = s.ppu.oamAddr := memRead_oamAddr ..

/-- The copy never moves the OAM address, so that each byte goes to a place counted from the first one. -/
theorem oamDmaLoop_eq_foldl (page : Byte) (l : List Nat) (s : State) :
    oamDmaLoop page l s = l.foldl (copyOamByte page s.ppu.oamAddr) s := by
  induction l generalizing s with
  | nil => rfl
  | cons i rest ih =>
    have first : oamDmaLoop page (i :: rest) s = oamDmaLoop page rest (copyOamByte page s.ppu.oamAddr s i) := by
      simp only [oamDmaLoop, memRead_oamAddr, copyOamByte]
    rw [first, ih, copyOamByte_oamAddr, List.foldl_cons]

theorem oamDmaLoop_oamAddr (page : Byte) (l : List Nat) (s : State) :
    (oamDmaLoop page l s).ppu.oamAddr = s.ppu.oamAddr := by
  obtain ⟨_, _, _, _, _, _, h⟩ := oamDmaLoop_frame page l s
  rw [h]

theorem oamDma_eq_foldl (page : Byte) (s : State) :
    oamDma page s = { (List.range 256).foldl (copyOamByte page s.ppu.oamAddr) s with
      extra := s.extra + s.cfg.dmaPenalty } := by
  rw [← oamDmaLoop_eq_foldl]
  obtain ⟨_, _, _, _, _, _, h⟩ := oamDmaLoop_frame page (List.range 256) s
  rw [oamDma, h]

theorem pageAddress_outside {page : Byte} (h : page.toNat < 0x20 ∨ 0x41 ≤ page.toNat) (l : Byte) :
    inDeviceWindow (mkWord page l) = false := by
  have := l.isLt
  rw [inDeviceWindow_eq_false, mkWord_toNat]
  omega

/-- A page outside the device windows is copied without any effect but on OAM, and every byte that is read is the one
before the copy, which writes neither work RAM nor ROM. -/
theorem copyOamBytes_outside {page : Byte} (h : page.toNat < 0x20 ∨ 0x41 ≤ page.toNat) (base : Byte) (s : State)
    {n : Nat} (hn : n ≤ 256) :
    ∃ oam, (List.range n).foldl (copyOamByte page base) s = { s with ppu.oam := oam } ∧
      ∀ i < n, oam.read ((base.toNat + i) % 256) = s.peek (mkWord page (BitVec.ofNat 8 i)) := by
  induction n with
  | zero => exact ⟨s.ppu.oam, rfl, nofun⟩
  | succ n ih =>
    obtain ⟨oam, copied, reads⟩ := ih (by omega)
    have outside := pageAddress_outside h (BitVec.ofNat 8 n)
    refine ⟨oam.write ((base.toNat + n) % 256) (s.peek (mkWord page (BitVec.ofNat 8 n))), ?_, fun i hi => ?_⟩
    · rw [List.range_succ, List.foldl_append, copied]
      simp only [List.foldl_cons, List.foldl_nil, copyOamByte, State.peek, memRead_outside outside]
    · obtain rfl | before : i = n ∨ i < n := by omega
      · exact Memory.read_write_same ..
      · rw [Memory.read_write_other _ _ (by omega), reads i before]

/-! ### The joypad -/

theorem padRead_strobeHigh {u : Pad} (h : u.strobe = true) (input : Byte) :
    padRead input u = (buttonByte (input.getLsbD 0), { u with shift := input, index := 0#3 }) := if_pos h

theorem padRead_strobeLow {u : Pad} (h : u.strobe = false) (input : Byte) :
    padRead input u = (buttonByte (u.shift.getLsbD u.index.toNat), { u with index := u.index + 1#3 }) :=
  if_neg (Bool.not_eq_true _ ▸ h)

/-- With the strobe low the reads count, modulo 8, and keep what is latched (48_sync_dma_joypad.md R422, R423). -/
theorem padAfter_strobeLow {u : Pad} (h : u.strobe = false) (input : Byte) (n : Nat) :
    padAfter input n u = { u with index := u.index + BitVec.ofNat 3 n } := by
  induction n with
  | zero => rw [padAfter, BitVec.add_zero]
  | succ n ih =>
    have low : ({ u with index := u.index + BitVec.ofNat 3 n } : Pad).strobe = false := h
    rw [padAfter, ih, padRead_strobeLow low, BitVec.ofNat_add, ← BitVec.add_assoc]

theorem padAfter_strobeHigh {u : Pad} (h : u.strobe = true) (input : Byte) (n : Nat) :
    (padAfter input n u).strobe = true := by
  induction n with
  | zero => exact h
  | succ n ih => rw [padAfter, padRead_strobeHigh ih]; exact ih

theorem padWrite_odd {v : Byte} (h : v.getLsbD 0 = true) (input : Byte) (u : Pad) :
    padWrite input u v = { strobe := true, shift := input, index := 0#3 } := if_pos h

theorem padWrite_even {v : Byte} (h : v.getLsbD 0 = false) (input : Byte) (u : Pad) :
    padWrite input u v = { u with strobe := false } := if_neg (Bool.not_eq_true _ ▸ h)

theorem buttonByte_toNat (b : Bool) : (buttonByte b).toNat = bit01 b := by cases b <;> rfl

end Sys2Proof.Machine

namespace Sys2Proof
open Machine

/-- Settles O36: each address of the PPU window and its image below 0x2008 name the same register, and the other
windows are read or ignored by their own rules. -/
theorem otherWindows : Obligations.OtherWindows := by
  unfold Obligations.OtherWindows
  intro a v s
  refine ⟨fun h0 h1 => ?_, fun rom => ⟨memRead_rom rom s, memWrite_ignored (by omega) v s⟩, fun h0 h1 one => ?_,
    fun h0 h1 => ⟨memRead_unmapped h0 h1 s, memWrite_ignored h0 v s⟩⟩
  · have register := ppuRegister_toNat (Nat.mod_lt a.toNat (by decide : 0 < 8))
    have same : (0x2000#16 + BitVec.ofNat 16 (a.toNat % 8)).toNat % 8 = a.toNat % 8 := by omega
    rw [memRead_ppu h0 h1 rfl, memRead_ppu (by omega) (by omega) same, memWrite_ppu h0 h1 rfl,
      memWrite_ppu (by omega) (by omega) same]
    exact ⟨rfl, rfl⟩
  · have image : 0x8000 ≤ (a + 0x4000#16).toNat := by bv_omega
    rw [State.peek, State.peek, memRead_rom image, memRead_rom h0, prgByte_add_0x4000 one h0 h1]

/-- Settles O38: the read is one of the register that the address names. -/
theorem ppuRegisterReads : Obligations.PpuRegisterReads := by
  unfold Obligations.PpuRegisterReads
  intro a s h0 h1
  have register {n : Nat} (hn : a.toNat % 8 = n) := memRead_ppu h0 h1 hn s
  refine ⟨fun two => ?_, fun four => register four, fun seven below => ?_, fun seven palette => ?_, fun none => ?_⟩
  · rw [register two]
    exact ⟨s.ppu.statusByte_toNat, rfl⟩
  · rw [register seven, ppuRegRead, ppuDataRead_buffered below]
    rfl
  · rw [register seven, ppuRegRead, ppuDataRead_palette palette]
    rfl
  · simp only [List.mem_cons, List.not_mem_nil, or_false] at none
    obtain h | h | h | h | h := none <;> exact register h

/-- Settles O41: the copy is a sequence of bus reads and OAM writes, and reads outside the device windows see nothing
of the writes. -/
theorem oamDmaCopiesAPage : Obligations.OamDmaCopiesAPage := by
  unfold Obligations.OamDmaCopiesAPage
  constructor
  · intro page s copy u
    have loop : u = oamDmaLoop page (List.range 256) s := (oamDmaLoop_eq_foldl page _ s).symm
    exact ⟨oamDma_eq_foldl page s, by rw [loop, oamDmaLoop_oamAddr]⟩
  · intro page s h
    obtain ⟨oam, copied, reads⟩ := copyOamBytes_outside h s.ppu.oamAddr s (Nat.le_refl 256)
    rw [memWrite_dmaTrigger, oamDma_eq_foldl, copied]
    exact ⟨reads, rfl⟩

/-- Settles O42: reads with the strobe low count through the latched buttons, and with it high start over. -/
theorem joypadProtocol : Obligations.JoypadProtocol := by
  unfold Obligations.JoypadProtocol
  refine ⟨fun latched later u n => ?_, fun input later v u n odd => ?_,
    fun input v u even => padWrite_even even input u, buttonByte_toNat, fun v s => ⟨rfl, rfl⟩⟩
  · rw [padWrite_even (v := 0x00#8) rfl, padWrite_odd (v := 0x01#8) rfl, padAfter_strobeLow rfl, padRead_strobeLow rfl]
    have place : (0#3 + BitVec.ofNat 3 n).toNat = n % 8 := by rw [BitVec.zero_add, BitVec.toNat_ofNat]
    exact congrArg (fun k => buttonByte (latched.getLsbD k)) place
  · rw [padWrite_odd odd, padRead_strobeHigh (padAfter_strobeHigh rfl later n)]

end Sys2Proof
end

section
/-! The effective address of each addressing mode, and the comparisons and jumps (30_encoding.md section 3;
41_arithmetic_logic.md section 4; 43_control_flow.md section 1). -/

namespace Sys2Proof.Machine

theorem add_zext16_toNat (w : Word) (b : Byte) : (w + zext16 b).toNat = (w.toNat + b.toNat) % 65536 := by
  rw [BitVec.toNat_add, zext16_toNat]

/-- A page is the high byte of an address (30_encoding.md R134). -/
theorem pageCrossed_iff (base ea : Word) : pageCrossed base ea = true ↔ ea.toNat / 256 ≠ base.toNat / 256 := by
  rw [pageCrossed, bne_iff_ne, ne_eq, ← BitVec.toNat_inj, hiByte_toNat, hiByte_toNat]

/-- The pointer at a zero-page address, which may be a sum that wraps (30_encoding.md R137). -/
theorem zeroPagePointer_toNat {z : Byte} {k : Nat} (h : z.toNat = k % 256) (s : State) :
    (zeroPagePointer s z).toNat =
      256 * (s.ram.read ((k + 1) % 256)).toNat + (s.ram.read (k % 256)).toNat := by
  have next : (z + 1#8).toNat = (k + 1) % 256 := by bv_omega
  rw [zeroPagePointer, mkWord_toNat, next, h]

/-- Only the modes that index from a base in the whole address space can cross a page (30_encoding.md R134 to R138). -/
theorem resolve_crossed {f : AddrForm} (h : f.mode ∉ [.abx, .aby, .izy]) (s : State) :
    (resolve f s).crossed = false := by
  cases f
  case abx | aby | izy => simp [AddrForm.mode] at h
  all_goals rfl

theorem isStorage_iff {a : Word} : isStorage a = true ↔ a.toNat ≤ 0x1FFF ∨ 0x8000 ≤ a.toNat := by
  simp only [isStorage, Bool.or_eq_true, decide_eq_true_eq]

/-- Storage is made of whole pages (20_memory.md R71). -/
theorem isStorage_samePage {a : Word} (h : isStorage a = true) (l : Byte) : isStorage (mkWord (hiByte a) l) = true := by
  have := l.isLt
  rw [isStorage_iff] at h ⊢
  rw [mkWord_toNat, hiByte_toNat]
  omega

/-- The pointer of an indirect jump is read without effect from storage (30_encoding.md R136). -/
theorem jumpTo_ind_storage {w : Word} (h : isStorage w = true) (s : State) :
    jumpTo (.ind w) s =
      { s with pc := mkWord (s.peek (mkWord (hiByte w) (loByte w + 1#8))) (s.peek w) } := by
  simp only [jumpTo, resolve, memRead_storage h, memRead_storage (isStorage_samePage h _)]

end Sys2Proof.Machine

namespace Sys2Proof
open Machine

/-- Settles O30: each effective address is a sum, of a zero-page address, of a word, or of a pointer. -/
theorem effectiveAddresses : Obligations.EffectiveAddresses := by
  unfold Obligations.EffectiveAddresses
  intro z off w s
  dsimp only
  have inPage : z.toNat = z.toNat % 256 := (Nat.mod_eq_of_lt z.isLt).symm
  have pointer := zeroPagePointer_toNat inPage s
  refine ⟨zext16_toNat z, (zext16_toNat _).trans (BitVec.toNat_add z s.x),
    (zext16_toNat _).trans (BitVec.toNat_add z s.y), rfl, add_zext16_toNat w s.x, add_zext16_toNat w s.y, ?izx, ?izy,
    add_sext16_toNat s.pc off, pageCrossed_iff w _, pageCrossed_iff w _, ?crossing,
    fun f => ⟨fun notInd => resolve_after notInd s, fun notIndexed => resolve_crossed notIndexed s⟩⟩
  case izx => rw [resolve_izx, zeroPagePointer_toNat (BitVec.toNat_add z s.x)]
  case izy => rw [resolve_izy, add_zext16_toNat, pointer]
  case crossing => rw [resolve_izy, pageCrossed_iff, pointer]

/-- Settles O18: the operand's read changes neither the registers nor the flags. -/
theorem compareAndBitTest : Obligations.CompareAndBitTest := by
  unfold Obligations.CompareAndBitTest
  refine ⟨by decide +kernel, by decide +kernel, by decide +kernel, by decide +kernel, fun i s => ?_⟩
  rw [← operandByte_a i.operand s, ← operandByte_x i.operand s, ← operandByte_y i.operand s,
    ← operandByte_p i.operand s]
  exact ⟨fun cmp => exec_of_op cmp s, fun cpx => exec_of_op cpx s, fun cpy => exec_of_op cpy s,
    fun bit => exec_of_op bit s⟩

/-- Settles O21: a jump resolves its operand; a pointer in storage is read without effect. -/
theorem jumpInstruction : Obligations.JumpInstruction := by
  unfold Obligations.JumpInstruction
  exact ⟨by decide +kernel, fun w s => exec_eq (.jmpAbs w) s, fun w s => exec_eq (.jmpInd w) s,
    fun w s storage => congrArg Host.Outcome.next (jumpTo_ind_storage storage s)⟩

end Sys2Proof
end

section
/-! What the register instructions and the storing instructions leave unchanged (40_load_store_transfer.md sections 2
and 3; 41_arithmetic_logic.md section 5; 42_shift_rotate.md; 43_control_flow.md; 44_stack_flags_system.md sections 2 and
3). -/

namespace Sys2Proof.Machine

/-! ### Register instructions -/

/-- The registers and flags that an operation on registers and flags alone can change. -/
structure RegisterFrame (o : Op) (s t : State) : Prop where
  change : t = { s with a := t.a, x := t.x, y := t.y, sp := t.sp, pc := t.pc, p := t.p }
  a : o ∉ [.txa, .tya, .asl, .lsr, .rol, .ror] → t.a = s.a
  x : o ∉ [.tax, .tsx, .inx, .dex] → t.x = s.x
  y : o ∉ [.tay, .iny, .dey] → t.y = s.y
  sp : o ≠ .txs → t.sp = s.sp
  pc : o ∉ [.bpl, .bmi, .bvc, .bvs, .bcc, .bcs, .bne, .beq, .jmp] → t.pc = s.pc
  nz : o ∉ [.tax, .tay, .txa, .tya, .tsx, .inx, .iny, .dex, .dey, .asl, .lsr, .rol, .ror] →
    t.p.n = s.p.n ∧ t.p.z = s.p.z
  v : o ≠ .clv → t.p.v = s.p.v
  b : t.p.b = s.p.b
  d : o ∉ [.cld, .sed] → t.p.d = s.p.d
  i : o ∉ [.cli, .sei] → t.p.i = s.p.i
  c : o ∉ [.clc, .sec, .asl, .lsr, .rol, .ror] → t.p.c = s.p.c

/-- The operations that touch registers and flags in every mode. -/
def registerOps : List Op :=
  [.tax, .tay, .txa, .tya, .tsx, .txs, .inx, .iny, .dex, .dey, .clc, .sec, .cli, .sei, .cld, .sed, .clv, .nop,
    .bpl, .bmi, .bvc, .bvs, .bcc, .bcs, .bne, .beq]

theorem setPc_registerFrame {o : Op} (h : o ∈ [.bpl, .bmi, .bvc, .bvs, .bcc, .bcs, .bne, .beq, .jmp]) (s : State)
    (pc : Word) : RegisterFrame o s { s with pc := pc } where
  change := rfl
  a _ := rfl
  x _ := rfl
  y _ := rfl
  sp _ := rfl
  pc h' := absurd h h'
  nz _ := ⟨rfl, rfl⟩
  v _ := rfl
  b := rfl
  d _ := rfl
  i _ := rfl
  c _ := rfl

theorem goIf_registerFrame {o : Op} (h : o ∈ [.bpl, .bmi, .bvc, .bvs, .bcc, .bcs, .bne, .beq, .jmp]) (cond : Bool)
    (x : Operand) (s : State) : RegisterFrame o s (goIf cond x s) := by
  cases cond with
  | true => exact setPc_registerFrame h s (operandAddress x s)
  | false => exact setPc_registerFrame h s s.pc

theorem effect_registerFrame {o : Op} (h : o ∈ registerOps) (x : Operand) (s : State) :
    RegisterFrame o s (effect o x s) := by
  have kept {α : Type} {P : Prop} (y : α) : P → y = y := fun _ => rfl
  have keptBoth {α β : Type} {P : Prop} (y : α) (z : β) : P → y = y ∧ z = z := fun _ => ⟨rfl, rfl⟩
  cases o
  case tax | tsx | inx | dex =>
    exact ⟨rfl, kept _, by simp, kept _, kept _, kept _, by simp, kept _, rfl, kept _, kept _, kept _⟩
  case tay | iny | dey =>
    exact ⟨rfl, kept _, kept _, by simp, kept _, kept _, by simp, kept _, rfl, kept _, kept _, kept _⟩
  case txa | tya =>
    exact ⟨rfl, by simp, kept _, kept _, kept _, kept _, by simp, kept _, rfl, kept _, kept _, kept _⟩
  case txs =>
    exact ⟨rfl, kept _, kept _, kept _, by simp, kept _, keptBoth _ _, kept _, rfl, kept _, kept _, kept _⟩
  case clc | sec =>
    exact ⟨rfl, kept _, kept _, kept _, kept _, kept _, keptBoth _ _, kept _, rfl, kept _, kept _, by simp⟩
  case cli | sei =>
    exact ⟨rfl, kept _, kept _, kept _, kept _, kept _, keptBoth _ _, kept _, rfl, kept _, by simp, kept _⟩
  case cld | sed =>
    exact ⟨rfl, kept _, kept _, kept _, kept _, kept _, keptBoth _ _, kept _, rfl, by simp, kept _, kept _⟩
  case clv =>
    exact ⟨rfl, kept _, kept _, kept _, kept _, kept _, keptBoth _ _, by simp, rfl, kept _, kept _, kept _⟩
  case nop =>
    exact ⟨rfl, kept _, kept _, kept _, kept _, kept _, keptBoth _ _, kept _, rfl, kept _, kept _, kept _⟩
  case bpl | bmi | bvc | bvs | bcc | bcs | bne | beq => exact goIf_registerFrame (by decide) _ x s
  all_goals simp [registerOps] at h

theorem effect_acc_registerFrame {o : Op} (h : o ∈ [.asl, .lsr, .rol, .ror]) (s : State) :
    RegisterFrame o s (effect o .acc s) := by
  cases o
  case asl | lsr | rol | ror =>
    exact ⟨rfl, by simp, fun _ => rfl, fun _ => rfl, fun _ => rfl, fun _ => rfl, by simp, fun _ => rfl, rfl,
      fun _ => rfl, fun _ => rfl, by simp⟩
  all_goals simp at h

/-- Only the shifts and rotates have the accumulator as their operand (30_encoding.md R142). -/
theorem shift_of_acc_mem_modes {o : Op} (h : .acc ∈ o.modes) : o ∈ [.asl, .lsr, .rol, .ror] := by
  revert h; cases o <;> decide

theorem operand_eq_abs_of_mode : ∀ {x : Operand}, x.mode = .abs → ∃ w, x = .mem (.abs w)
  | .mem (.abs w), _ => ⟨w, rfl⟩

theorem RegisterOnly.frame {i : Instr} (h : RegisterOnly i) (s : State) :
    RegisterFrame i.op s (effect i.op i.operand s) := by
  obtain inList | acc | ⟨jmp, abs⟩ := h
  · exact effect_registerFrame inList i.operand s
  · have legal := operand_mode_mem_modes i
    rw [acc] at legal ⊢
    exact effect_acc_registerFrame (shift_of_acc_mem_modes legal) s
  · obtain ⟨w, operand⟩ := operand_eq_abs_of_mode abs
    rw [jmp, operand]
    exact setPc_registerFrame (by decide) s w

/-! ### Storing instructions -/

/-- Outside the device windows a bus write stores in work RAM or is ignored (20_memory.md R73 to R78). -/
theorem memWrite_outside {a : Word} (h : inDeviceWindow a = false) (v : Byte) (s : State) :
    memWrite a v s =
      { s with ram := if a.toNat ≤ 0x1FFF then s.ram.write (a.toNat % 0x0800) v else s.ram } := by
  obtain ram | above := inDeviceWindow_eq_false.mp h
  · rw [memWrite_ram ram, if_pos ram]
  · rw [memWrite_ignored above, if_neg (by omega)]

/-- Outside the device windows a bus write is seen only at the work RAM cell it names (20_memory.md R74). -/
theorem memWrite_peek_outside {a b : Word} (hb : inDeviceWindow b = false) (other : sameRamCell b a = false) (v : Byte)
    (s : State) : (memWrite a v s).peek b = s.peek b := by
  have cell (hb : b.toNat ≤ 0x1FFF) (ha : a.toNat ≤ 0x1FFF) : b.toNat % 0x0800 ≠ a.toNat % 0x0800 := by
    simpa [sameRamCell, inRam, hb, ha] using other
  simp only [State.peek, memRead_outside hb, memWrite_cart, memWrite_state_ram]
  split
  · next hb =>
    split
    · next ha => exact Memory.read_write_other _ v (cell hb ha)
    · rfl
  · rfl

/-- What a bus write at `ea` leaves unchanged, and a read of the same address before it. -/
structure BusWriteFrame (ea : Word) (s t : State) : Prop where
  cpu : SameCpu s t
  peek : ∀ b, inDeviceWindow b = false → sameRamCell b ea = false → t.peek b = s.peek b
  devices : inDeviceWindow ea = false → t.ppu = s.ppu ∧ t.apu = s.apu ∧ t.pad = s.pad

theorem memWrite_frame (ea : Word) (v : Byte) (s : State) : BusWriteFrame ea s (memWrite ea v s) where
  cpu := memWrite_sameCpu ea v s
  peek _ hb other := memWrite_peek_outside hb other v s
  devices outside := by
    rw [memWrite_outside outside]
    exact ⟨rfl, rfl, rfl⟩

theorem memRead_memWrite_frame (ea : Word) (v : Byte) (s : State) :
    BusWriteFrame ea s (memWrite ea v (memRead ea s).2) where
  cpu := by constructor <;> simp
  peek _ hb other := (memWrite_peek_outside hb other v _).trans
    (peek_congr_outside hb (memRead_state_ram ea s) (memRead_cart ea s))
  devices outside := by
    rw [memRead_outside outside, memWrite_outside outside]
    exact ⟨rfl, rfl, rfl⟩

/-- What a storing instruction changes: what its bus write does, and of the flags at most N, Z and C. -/
structure StoringFrame (o : Op) (ea : Word) (s t : State) : Prop where
  change : ∃ u, BusWriteFrame ea s u ∧ t = { u with p := t.p }
  flags : t.p = { s.p with n := t.p.n, z := t.p.z, c := t.p.c }
  stored : o ∈ storeOps → t.p = s.p
  c : o ∈ [.inc, .dec] → t.p.c = s.p.c

theorem memWrite_storingFrame {o : Op} (h : o ∉ [.inc, .dec]) (ea : Word) (v : Byte) (s : State) :
    StoringFrame o ea s (memWrite ea v s) where
  change := ⟨_, memWrite_frame ea v s, rfl⟩
  flags := by rw [memWrite_p]
  stored _ := memWrite_p ea v s
  c h' := absurd h' h

theorem effect_storingFrame {o : Op} (h : o ∈ storeOps ++ modifyOps) (f : AddrForm) (s : State) :
    StoringFrame o (resolve f s).ea s (effect o (.mem f) s) := by
  have modifies (v : Byte) := memRead_memWrite_frame (resolve f s).ea v s
  cases o
  case sta | stx | sty => exact memWrite_storingFrame (by decide) _ _ s
  case inc | dec => exact ⟨⟨_, modifies _, rfl⟩, rfl, by simp [storeOps], fun _ => rfl⟩
  case asl | lsr | rol | ror => exact ⟨⟨_, modifies _, rfl⟩, rfl, by simp [storeOps], by simp⟩
  all_goals simp [storeOps, modifyOps] at h

end Sys2Proof.Machine

namespace Sys2Proof
open Machine

/-- Settles O32: a read of the bus sees none of the registers and flags. -/
theorem frameOfRegisterInstructions : Obligations.FrameOfRegisterInstructions := by
  unfold Obligations.FrameOfRegisterInstructions
  intro i s t registerOnly h
  obtain rfl := exec_next h
  have f := registerOnly.frame s
  have same {α : Type} (g : State → α) := congrArg g f.change
  exact ⟨f.change, f.a, f.x, f.y, f.sp, f.pc, f.nz, f.v, f.b, f.d, f.i, f.c, fun b =>
    peek_congr (fun _ => congrArg (Memory.read · _) (same (·.ram))) (same (·.ppu)) (same (·.apu)) (same (·.pad))
      (same (·.padInput)) (same (·.cart))⟩

/-- Settles O33: a storing instruction makes one bus write, after at most one read at the same address. -/
theorem frameOfStoringInstructions : Obligations.FrameOfStoringInstructions := by
  unfold Obligations.FrameOfStoringInstructions
  intro i s t f storing operand h
  obtain rfl := exec_next h
  have frame := effect_storingFrame storing f s
  rw [operand]
  obtain ⟨⟨u, bus, change⟩, flags, stored, c⟩ := frame
  have same {α : Type} (g : State → α) := congrArg g change
  have flag {α : Type} (g : Flags → α) := congrArg g flags
  refine ⟨(same (·.a)).trans bus.cpu.a, (same (·.x)).trans bus.cpu.x, (same (·.y)).trans bus.cpu.y,
    (same (·.sp)).trans bus.cpu.sp, (same (·.pc)).trans bus.cpu.pc, stored, flag (·.b), flag (·.d), flag (·.i),
    flag (·.v), c, (same (·.nmiPending)).trans bus.cpu.nmiPending,
    (same (·.totalCycles)).trans bus.cpu.totalCycles, (same (·.cart)).trans bus.cpu.cart,
    (same (·.cfg)).trans bus.cpu.cfg, fun b hb other => ?_, fun outside => ?_⟩
  · exact (peek_congr_outside (s := u) hb (same (·.ram)) (same (·.cart))).trans (bus.peek b hb other)
  · obtain ⟨ppu, apu, pad⟩ := bus.devices outside
    exact ⟨(same (·.ppu)).trans ppu, (same (·.apu)).trans apu, (same (·.pad)).trans pad⟩

end Sys2Proof
end
